-- ==== Sys2Proof/Word.lean ====
section
/-! DEFINITION. The words of the WS2812B serial encoder: what the spec treats as bits, and nothing else. -/

namespace Sys2Proof

/-- A command word `cmd[71:0]` (R91). -/
abbrev CmdWord := BitVec 72

/-- One operand field `a`, `b`, `c` or `d` of a command word, `W_OP` = 16 bits wide (R91, D4). -/
abbrev Field := BitVec 16

/-- One byte of a byte-wide transport, and the opcode byte of a command word (R67, R91). -/
abbrev Byte := BitVec 8

/-- One channel intensity, `CHANNEL_BITS` = 8 bits, unsigned (R20). -/
abbrev Channel := BitVec 8

end Sys2Proof
end

