-- ==== Sys2Proof/Config.lean ====
section
/-! DEFINITION. What a realisation fixes (the parameters of R7), and the free values of the model. The
parameters stand in a structure, which State carries unchanged: a statement over every state holds for every
configuration. The free values are constants without a body: no proof can see what they are. -/

namespace Sys2Proof

/-- A channel of a pixel (R103). -/
inductive ChannelName where
  | red | green | blue
  deriving DecidableEq, Repr

/-- `CHANNEL_ORDER`: a permutation of (R, G, B), so one of six (R104, D13). -/
inductive ChannelOrder where
  | rgb | rbg | grb | gbr | brg | bgr
  deriving DecidableEq, Repr

/-- The pulse parameters in clock ticks (R7, R107, R108, D14). -/
structure Timing where
  /-- high part of a 0 symbol -/
  t0h : Nat
  /-- low part of a 0 symbol -/
  t0l : Nat
  /-- high part of a 1 symbol -/
  t1h : Nat
  /-- low part of a 1 symbol -/
  t1l : Nat
  /-- the strip's reset threshold, least length of the closing gap -/
  tres : Nat
  deriving DecidableEq, Repr

/-- What R7, R107 and R108 ask of the pulse parameters: all positive, a 1 is the longer high pulse, and no low
part of a symbol reaches the reset threshold. -/
def Timing.valid (t : Timing) : Bool :=
  decide (0 < t.t0h) && decide (0 < t.t0l) && decide (0 < t.t1h) && decide (0 < t.t1l) &&
    decide (0 < t.tres) && decide (t.t0h < t.t1h) && decide (t.t0l < t.tres) && decide (t.t1l < t.tres)

/-- A run of pin ids, both ends included. -/
structure PinRange where
  lo : Nat
  hi : Nat
  deriving DecidableEq, Repr

/-- The parameters of R7. `MAX_PIXELS` is 16 bits wide, so that no configuration exceeds what the NEW field can
carry. `claimable` lists `PINS_CLAIMABLE` as runs of pin ids; ids above 65535 never count (R228). -/
structure Config where
  channelOrder : ChannelOrder
  maxPixels : Field
  timing : Timing
  /-- `F_CLK`, the clock's frequency in hertz (D29); only the nominal figures of R267 read it -/
  fClk : Nat
  claimable : List PinRange
  deriving DecidableEq, Repr

/-- DESIGN CHOICE (log 1). The configuration of State.reset: the spec's own defaults for `CHANNEL_ORDER` and
`MAX_PIXELS` (R7), and the example figures of spec/95_test_vectors.md for the parameters R7 leaves open. -/
def Config.standard : Config where
  channelOrder := .grb
  maxPixels := 65535#16
  timing := { t0h := 8, t0l := 17, t1h := 16, t1l := 9, tres := 1000 }
  fClk := 20000000
  claimable := [{ lo := 0, hi := 65535 }]

/-- FREE VALUE (log 3). The fault oracle's draw for a transmission whose draw State does not list (R39, U7):
none, or the number of whole bits after which the line fails. -/
opaque Config.faultDraw : Nat → Option Nat

/-- FREE VALUE (log 4). Whether the line is high after a transmission that faulted while the block keeps the
line (R188, U8). -/
opaque Config.faultLineHigh : Nat → Bool

/-- FREE VALUE (log 5). Whether an LED shows the colour sent, not the one before, after a truncated
transmission (R38, R187, U2). The arguments are the draw's number and the LED's. -/
opaque Config.faultShowsSent : Nat → Nat → Bool

/-- FREE VALUE (log 5). The red, green and blue an LED powers up with (R38, U3). -/
opaque Config.powerUpColour : Nat → Nat → Channel × Channel × Channel

end Sys2Proof
end

