-- ==== Sys2Proof/Machine/State.lean ====
section
/-! DEFINITION. The state of the block (spec/10_state.md sections 1 and 2), of its ports (R90) and of the
environment a model needs beside it (section 5), all plain data, and the state after reset (R40). -/

namespace Sys2Proof.Machine

/-- A pixel, three unsigned 8-bit channels, always in the order red, green, blue (R20, R22, R66). -/
structure Pixel where
  r : Channel
  g : Channel
  b : Channel
  deriving DecidableEq, Repr

/-- The colour (0, 0, 0). -/
def Pixel.black : Pixel := { r := 0#8, g := 0#8, b := 0#8 }

/-- The position in the Strip Driver's state machine (R25); the encoding 3 is never taken. -/
inductive Phase where
  | uninitialized | ready | released
  deriving DecidableEq, Repr

/-- The status of a response (R98); codes 8 to 15 are never produced. -/
inductive Status where
  | ok | invalidConfiguration | peripheralUnavailable | indexOutOfRange
  | useAfterRelease | transmitFault | wrongPhase | illegalCommand
  deriving DecidableEq, Repr

/-- The level of the output line (R32): not driven by the block, driven low, driven high. -/
inductive Level where
  | z | low | high
  deriving DecidableEq, Repr

/-- The driver a successful NEW constructs: the registers `pin` (R27) and `num_pixels` (R26) and the Pixel
Buffer `buf` (R21). They come into being and go together (R41: "no partial driver is returned"). -/
structure Driver where
  pin : Nat
  numPixels : Nat
  buf : List Pixel
  deriving DecidableEq, Repr

/-- One transmission the line has carried (R37). -/
structure Transmission where
  bits : List Bool
  complete : Bool
  deriving DecidableEq, Repr

/-- How a transmission ended (R180). -/
inductive TxResult where
  | ok | fault
  deriving DecidableEq, Repr

/-- What the agents outside the block may do next (R6, R36, R250). -/
inductive Input where
  /-- the host presents a command word on the command port (R90) -/
  | command (w : CmdWord)
  /-- another claimant asks the allocator for a pin (R36) -/
  | otherClaim (pin : Nat)
  /-- another claimant hands a pin back (R36) -/
  | otherUnclaim (pin : Nat)
  /-- the reset input `rst`, between commands (R250, R251) -/
  | reset
  /-- the host presents a command word, and the reset input ends the command before its response (R252) -/
  | resetDuring (w : CmdWord)
  /-- power is lost and comes back, for the block and for the strip (R5, R250, R251) -/
  | powerCycle
  deriving DecidableEq, Repr

/-- The whole state. `driver` is `none` where the spec gives `buf`, `num_pixels` and `pin` no value (R40,
R41, log 6); this is the spec's own state, not a missing reset value. -/
structure State where
  /-- `phase` (R25) -/
  phase : Phase
  /-- `pin`, `num_pixels` and `buf` (R21, R26, R27, R41) -/
  driver : Option Driver
  /-- `owns_line` (R28) -/
  ownsLine : Bool
  /-- `status` (R29) -/
  status : Status
  /-- `busy` (R30); `cmd_ready` of R90 is its negation -/
  busy : Bool
  /-- `line`, the block's output (R32) -/
  line : Level
  /-- the response port (R90): `rsp_valid` with `rsp_status`, for the step that ends a command -/
  rsp : Option Status
  /-- environment: what the other agents do next, oldest first; a command at the head is on the port (R90) -/
  inputs : List Input
  /-- environment: the allocator's `claimed` (R36), strictly rising -/
  claimed : List Nat
  /-- environment: the wire history `wire` (R37), oldest first; `tx_count` is its length -/
  wire : List Transmission
  /-- environment: the fault oracle's next answers (R39); after the last, `Config.faultDraw` answers -/
  draws : List (Option Nat)
  /-- environment: the colours the strip displays (R38); its length is `STRIP_LEN` -/
  shown : List Pixel
  /-- the configuration (R7), constant -/
  cfg : Config
  /-- the MODEL's own: the number of free values drawn so far (log 3) -/
  freeIndex : Nat
  deriving DecidableEq, Repr

/-- The reasons a step stops with a fault. -/
inductive Fault where
  /-- Raised by SET_PIXEL, FILL_ALL, CLEAR, SHOW and RELEASE when the phase is `Ready` and there is no driver:
  R40 and U17 make a read of a field without a value a fault of the model. Safe; no state with the invariant
  `State.Inv` raises it. -/
  | absentDriver
  deriving DecidableEq, Repr

/-- The reasons a step has no meaning. -/
inductive Refusal where
  /-- Raised by an arm of exec whose instruction has no meaning yet. Safe. -/
  | notModelled (mnemonic : String)
  /-- Raised by NEW with `num_pixels` above `MAX_PIXELS`: R131 and U13 give it no meaning. Safe. -/
  | tooManyPixels
  /-- Raised by SHOW and RELEASE in `Ready` when the block does not hold the line: R180 and R230 ask for the
  handle, U1 refuses. Safe; no state with the invariant `State.Inv` raises it. -/
  | lineNotOwned
  deriving DecidableEq, Repr

/-- The three outcomes of a step of this machine. -/
abbrev Result := Host.Outcome State Fault Refusal

/-- The state after reset (R40, R250). The allocator, the strip, the oracle's answers and the configuration are
the environment's, which R40 leaves unspecified: log 1, 2, 3 and 5 name the values here. -/
def State.reset : State where
  phase := .uninitialized
  driver := none
  ownsLine := false
  status := .ok
  busy := false
  line := .z
  rsp := none
  inputs := []
  claimed := []
  wire := []
  draws := []
  shown := List.replicate 5 { r := 255#8, g := 255#8, b := 255#8 }
  cfg := Config.standard
  freeIndex := 0

end Sys2Proof.Machine
end

