-- ==== Sys2Proof/Machine/Flags.lean ====
section
/-! DEFINITION. The block has no arithmetic flags and no condition codes (R33): its flag-like state is `busy`,
`owns_line` and `status`. Here are the numbers the spec gives the status codes and the phases, and the status a
transmission's end leads to. -/

namespace Sys2Proof.Machine

/-- The 4-bit code of a status (R98). -/
def statusCode : Status → BitVec 4
  | .ok => 0#4
  | .invalidConfiguration => 1#4
  | .peripheralUnavailable => 2#4
  | .indexOutOfRange => 3#4
  | .useAfterRelease => 4#4
  | .transmitFault => 5#4
  | .wrongPhase => 6#4
  | .illegalCommand => 7#4

/-- The 2-bit encoding of a phase (R25). -/
def phaseCode : Phase → BitVec 2
  | .uninitialized => 0#2
  | .ready => 1#2
  | .released => 2#2

/-- The status a committing command returns for the end of its transmission (R180, R215). -/
def txStatus : TxResult → Status
  | .ok => .ok
  | .fault => .transmitFault

end Sys2Proof.Machine
end

