-- ==== Sys2Proof/Machine/Operands.lean ====
section
/-! DEFINITION. What is done to a command's operands: clamping a channel and checking an index. The operands
themselves are assembled in Sys2Proof/Decode.lean (R94). -/

namespace Sys2Proof.Machine

/-- `clamp8`: 0 below 0, 255 above 255, the value itself between (R130). -/
def clamp8 (v : Int) : Channel :=
  if v < 0 then 0#8 else if 255 < v then 255#8 else BitVec.ofNat 8 v.toNat

/-- The colour SET_PIXEL and FILL_ALL store: each channel operand clamped by itself (R130, R132, R133). -/
def clampPixel (r g b : Int) : Pixel := { r := clamp8 r, g := clamp8 g, b := clamp8 b }

/-- An index is valid if and only if `0 <= index < num_pixels`, as mathematical integers (R62). -/
def indexValid (index : Int) (numPixels : Nat) : Bool := decide (0 ≤ index) && decide (index < numPixels)

end Sys2Proof.Machine
end

