-- ==== Sys2Proof/Machine/Ops.lean ====
section
/-! DEFINITION. The operations the commands share: the response, which is also how an error is reported (R210:
the block's only form of taking an exception), the phase check of the dispatch (R150), and the platform's
primitives Claim, Unclaim and LineWrite (spec/60_exceptions.md section 7). -/

namespace Sys2Proof.Machine

/-- End a command with a status: `status <- s ; busy <- 0 ; respond s` (R150). Reporting an error is this and
nothing else (R210): nothing is saved, control goes nowhere, and there is no return to restore anything (R220). -/
def respond (st : Status) (s : State) : State :=
  { s with status := st, busy := false, rsp := some st }

/-- The dispatch of a command that executes only in `Ready` (R150, R151, R218), with the driver its body reads. -/
def inReady (s : State) (body : Driver → Result) : Result :=
  match s.phase with
  | .uninitialized => .next (respond .wrongPhase s)
  | .released => .next (respond .useAfterRelease s)
  | .ready =>
    match s.driver with
    | some d => body d
    | none => .fault .absentDriver

/-- The line is driven only while the block holds the handle (R180, R182, R230). -/
def withLine (s : State) (body : Result) : Result :=
  if s.ownsLine then body else .refused .lineNotOwned

/-- `pin ∈ PINS_CLAIMABLE`, a set of pin ids from 0 to 65535 (R7, R228). -/
def pinClaimable (c : Config) (pin : Nat) : Bool :=
  decide (pin < 65536) && c.claimable.any fun run => decide (run.lo ≤ pin) && decide (pin ≤ run.hi)

/-- `claimed ∪ {pin}`, kept strictly rising. -/
def insertPin (pin : Nat) : List Nat → List Nat
  | [] => [pin]
  | q :: rest => if pin < q then pin :: q :: rest else if pin = q then q :: rest else q :: insertPin pin rest

/-- `claimed \ {pin}`. -/
def removePin (pin : Nat) (claimed : List Nat) : List Nat := claimed.filter fun q => !decide (q = pin)

/-- The allocator's answer to a claim by anyone: the new set, or none for `PeripheralUnavailable` (R36, R228). -/
def allocate (c : Config) (pin : Nat) (claimed : List Nat) : Option (List Nat) :=
  if pinClaimable c pin && !claimed.contains pin then some (insertPin pin claimed) else none

/-- `Claim(pin)` by the block: one atomic test and set (R71, R228); the handle comes with it (R28). -/
def claim (pin : Nat) (s : State) : Option State :=
  match allocate s.cfg pin s.claimed with
  | some set => some { s with claimed := set, ownsLine := true }
  | none => none

/-- `Unclaim(pin)`: the pin goes back, the handle ceases to exist, the block stops driving the line (R229). -/
def unclaim (pin : Nat) (s : State) : State :=
  { s with claimed := removePin pin s.claimed, ownsLine := false, line := .z }

/-- The level LineWrite drives for a bit. -/
def levelOf (high : Bool) : Level := if high then .high else .low

/-- `LineWrite(level)`: sets the line and returns at once (R230). -/
def lineWrite (high : Bool) (s : State) : State := { s with line := levelOf high }

/-- `LineInit()`: the line is driven low and kept low for `TRES` or more (R183); the step counts no ticks, the pulse view
of Sys2Proof/Machine/Pulse.lean does. -/
def lineInit (s : State) : State := lineWrite false s

/-- The pin the block holds, if it holds one (R28). -/
def ownPin (s : State) : Option Nat :=
  if s.ownsLine then s.driver.map Driver.pin else none

end Sys2Proof.Machine
end

