-- ==== Sys2Proof/Machine/PixelBuffer.lean ====
section
/-! DEFINITION. The Pixel Buffer's operations (spec/40_pixel_buffer.md), on the buffer alone: no I/O. -/

namespace Sys2Proof.Machine

/-- `PB.new(n)`: `n` cells of (0, 0, 0), or `InvalidConfiguration` for 0 (R131). -/
def pbNew (n : Nat) : Except Status (List Pixel) :=
  if n = 0 then .error .invalidConfiguration else .ok (List.replicate n Pixel.black)

/-- `PB.set(index, r, g, b)`: the bounds check, then one cell takes the clamped colour (R62, R132). -/
def pbSet (numPixels : Nat) (index r g b : Int) (buf : List Pixel) : Except Status (List Pixel) :=
  if indexValid index numPixels then .ok (buf.set index.toNat (clampPixel r g b)) else .error .indexOutOfRange

/-- `PB.fill(r, g, b)`: every cell takes the clamped colour (R133). -/
def pbFill (r g b : Int) (buf : List Pixel) : List Pixel :=
  let c := clampPixel r g b
  buf.map fun _ => c

/-- `PB.clear()`: `fill(0, 0, 0)` (R134). -/
def pbClear (buf : List Pixel) : List Pixel := pbFill 0 0 0 buf

/-- `PB.as_sequence()`: the read-only view, in buffer order and (R, G, B) representation (R135). -/
def pbAsSequence (buf : List Pixel) : List Pixel := buf

end Sys2Proof.Machine
end

