-- ==== Sys2Proof/Machine/Strip.lean ====
section
/-! DEFINITION. The strip, information only: the latch model of R38, which the spec marks as general knowledge
(log 5). No rule of the block and no meaning reads `shown`. -/

namespace Sys2Proof.Machine

/-- After a complete transmission LED `j` shows pixel-frame `j`; LEDs beyond the data keep their colour and data
beyond the LEDs is lost (R38). -/
def latchComplete (seq shown : List Pixel) : List Pixel :=
  shown.mapIdx fun j old => (seq[j]?).getD old

/-- After a truncated transmission each LED the data was meant for is as before or as sent, which of the two is a
free value (R38, R187, U2). -/
def latchTruncated (draw : Nat) (seq shown : List Pixel) : List Pixel :=
  shown.mapIdx fun j old => if Config.faultShowsSent draw j then (seq[j]?).getD old else old

/-- After a power cycle of the strip every LED has a free colour (R38, R251, U3). -/
def powerUpStrip (draw : Nat) (shown : List Pixel) : List Pixel :=
  shown.mapIdx fun j _ =>
    match Config.powerUpColour draw j with
    | (r, g, b) => { r := r, g := g, b := b }

end Sys2Proof.Machine
end

