-- ==== Sys2Proof/Machine/Serializer.lean ====
section
/-! DEFINITION. The serializer (spec/42_serializer.md): the bits of a transmission in the order they go on the
wire (R63 to R66, R102 to R105), the serializer cursor that walks them (R31), and Transmit (R180). -/

namespace Sys2Proof.Machine

/-- `chan(p, c)` (R105). -/
def chan (p : Pixel) : ChannelName → Channel
  | .red => p.r
  | .green => p.g
  | .blue => p.b

/-- The three channels in the order `CHANNEL_ORDER` names (R103, R104). -/
def orderChannels : ChannelOrder → List ChannelName
  | .rgb => [.red, .green, .blue]
  | .rbg => [.red, .blue, .green]
  | .grb => [.green, .red, .blue]
  | .gbr => [.green, .blue, .red]
  | .brg => [.blue, .red, .green]
  | .bgr => [.blue, .green, .red]

/-- One channel as 8 bits, most significant bit first (R63). -/
def channelBits (v : Channel) : List Bool := [7, 6, 5, 4, 3, 2, 1, 0].map v.getLsbD

/-- One pixel-frame: 24 bits, the three channels in wire order (R103). -/
def pixelFrame (o : ChannelOrder) (p : Pixel) : List Bool :=
  (orderChannels o).flatMap fun c => channelBits (chan p c)

/-- `WireBits(seq)`: the pixel-frames in buffer order, without anything between them (R64, R102, R105). -/
def wireBits (o : ChannelOrder) (seq : List Pixel) : List Bool := seq.flatMap (pixelFrame o)

/-- The serializer cursor `(tx_pix, tx_ch, tx_bit)` (R31). It exists only inside a transmission, which is one
step, so State does not hold it. -/
structure Cursor where
  pix : Nat
  ch : Nat
  bit : Nat
  deriving DecidableEq, Repr

/-- Where the cursor starts in every transmission (R31). -/
def cursorStart : Cursor := { pix := 0, ch := 0, bit := 7 }

/-- How each bit advances the cursor; after the last bit of the last pixel it ceases to exist (R31). -/
def cursorNext (numPixels : Nat) (c : Cursor) : Option Cursor :=
  if 0 < c.bit then some { c with bit := c.bit - 1 }
  else if c.ch < 2 then some { c with ch := c.ch + 1, bit := 7 }
  else if c.pix + 1 < numPixels then some { pix := c.pix + 1, ch := 0, bit := 7 }
  else none

/-- The bit that goes on the line at the cursor (R31, R105). -/
def cursorBit (o : ChannelOrder) (seq : List Pixel) (c : Cursor) : Bool :=
  match seq[c.pix]?, (orderChannels o)[c.ch]? with
  | some p, some name => (chan p name).getLsbD c.bit
  | _, _ => false

/-- The bits the cursor reads, for at most the given number of bits. -/
def cursorWalk (o : ChannelOrder) (seq : List Pixel) : Nat → Option Cursor → List Bool
  | 0, _ => []
  | _ + 1, none => []
  | fuel + 1, some c => cursorBit o seq c :: cursorWalk o seq fuel (cursorNext seq.length c)

/-- The fault oracle's draw for the next transmission (R39): the listed answer, or a free one. -/
def nextDraw (s : State) : Option Nat :=
  match s.draws with
  | d :: _ => d
  | [] => Config.faultDraw s.freeIndex

/-- Each transmission takes one draw and one number for its free values. -/
def takeDraw (s : State) : State :=
  { s with draws := s.draws.tail, freeIndex := s.freeIndex + 1 }

/-- `Transmit(seq)` as one step (R180, R186, R187, R188). A complete transmission ends with the line low; after a
fault the first `k` whole bits are recorded and the level of the line is a free value (U8). -/
def transmit (seq : List Pixel) (s : State) : TxResult × State :=
  let bits := wireBits s.cfg.channelOrder seq
  match nextDraw s with
  | none =>
    (.ok,
      { lineWrite false (takeDraw s) with
        wire := s.wire ++ [{ bits := bits, complete := true }]
        shown := latchComplete seq s.shown })
  | some k =>
    (.fault,
      { lineWrite (Config.faultLineHigh s.freeIndex) (takeDraw s) with
        wire := s.wire ++ [{ bits := bits.take k, complete := false }]
        shown := latchTruncated s.freeIndex seq s.shown })

/-- A commit, as NEW, SHOW and RELEASE make it: the line is driven low, for `TRES` or more before the first symbol as
R180 asks, and then the sequence is transmitted. NEW does so after its claim (R183), SHOW after a fault (R188); after a
complete transmission the line is low already. That RELEASE after a fault does so too is log 17. -/
def commit (seq : List Pixel) (s : State) : TxResult × State := transmit seq (lineInit s)

end Sys2Proof.Machine
end

