-- ==== Sys2Proof/Machine/Commit.lean ====
section
/-! DEFINITION. The command that makes the buffer visible: SHOW (R159, R160). -/

namespace Sys2Proof.Machine

/-- The body of SHOW: one transmission of the whole buffer, never skipped, never repeated (R159, R160),
from pixel-frame 0 and after a low line also where the one before it faulted (R188). -/
def showBuffer (d : Driver) (s : State) : State :=
  let sent := commit (pbAsSequence d.buf) s
  respond (txStatus sent.1) sent.2

/-- SHOW: `show()` (R159). -/
def execShowStrip (s : State) : Result :=
  inReady s fun d => withLine s (.next (showBuffer d s))

end Sys2Proof.Machine
end

