-- ==== Sys2Proof/Machine/Lifecycle.lean ====
section
/-! DEFINITION. The commands that begin and end a driver: NEW (R152, R153) and RELEASE (R161, R162). -/

namespace Sys2Proof.Machine

/-- NEW once the pin is claimed and the buffer is made: the registers are written, the line is conditioned, the
all-zero buffer is committed. A fault undoes the construction, for "no partial driver" is returned (R152). -/
def construct (pin n : Nat) (buf : List Pixel) (s : State) : State :=
  let driver : Driver := { pin := pin, numPixels := n, buf := buf }
  let sent := commit (pbAsSequence buf) { s with driver := some driver }
  match sent.1 with
  | .ok => respond .ok { sent.2 with phase := .ready }
  | .fault => respond .transmitFault { unclaim pin sent.2 with driver := none }

/-- NEW: `new(pin, num_pixels)` (R152, R153, R211, R212, R218). It executes only in `Uninitialized` (R150). -/
def execNew (pin numPixels : Nat) (s : State) : Result :=
  match s.phase with
  | .ready => .next (respond .wrongPhase s)
  | .released => .next (respond .useAfterRelease s)
  | .uninitialized =>
    match claim pin s with
    | none => .next (respond .peripheralUnavailable s)
    | some held =>
      if s.cfg.maxPixels.toNat < numPixels then .refused .tooManyPixels
      else
        match pbNew numPixels with
        | .error st => .next (respond st (unclaim pin held))
        | .ok buf => .next (construct pin numPixels buf held)

/-- RELEASE of a `Ready` driver: zero the buffer, commit all-off, hand the line back, whatever became of the
transmission (R161). -/
def tearDown (d : Driver) (s : State) : State :=
  let cleared : Driver := { d with buf := pbClear d.buf }
  let sent := commit (pbAsSequence cleared.buf) { s with driver := some cleared }
  respond (txStatus sent.1) { unclaim d.pin sent.2 with phase := .released }

/-- RELEASE: `release()` (R161); on a `Released` driver it returns `Ok` and does nothing (R162, C1). -/
def execRelease (s : State) : Result :=
  match s.phase with
  | .released => .next (respond .ok s)
  | _ => inReady s fun d => withLine s (.next (tearDown d s))

end Sys2Proof.Machine
end

