-- ==== Sys2Proof/Machine/Mutate.lean ====
section
/-! DEFINITION. The commands that change the buffer and nothing on the line: SET_PIXEL (R154), FILL_ALL (R155)
and CLEAR (R156). None of them commits (R75). -/

namespace Sys2Proof.Machine

/-- The driver's buffer takes new contents; `pin` and `num_pixels` stay (R26). -/
def setBuffer (d : Driver) (buf : List Pixel) (s : State) : State :=
  { s with driver := some { d with buf := buf } }

/-- SET_PIXEL: `set_pixel(index, r, g, b)` (R154, R213). -/
def execSetPixel (index r g b : Int) (s : State) : Result :=
  inReady s fun d =>
    match pbSet d.numPixels index r g b d.buf with
    | .ok buf => .next (respond .ok (setBuffer d buf s))
    | .error st => .next (respond st s)

/-- FILL_ALL: `fill_all(r, g, b)` (R155). -/
def execFillAll (r g b : Int) (s : State) : Result :=
  inReady s fun d => .next (respond .ok (setBuffer d (pbFill r g b d.buf) s))

/-- CLEAR: `clear()` (R156). -/
def execClear (s : State) : Result :=
  inReady s fun d => .next (respond .ok (setBuffer d (pbClear d.buf) s))

end Sys2Proof.Machine
end

