-- ==== Sys2Proof/Syntax.lean ====
section
/-! DEFINITION. The six commands of the block, at the text level of R95 and R100: a signed operand is any
`Int`, `pin` and `num_pixels` are natural numbers. One constructor per row of spec/opcode_table.json. The
binary level is the restriction to the operands a command word can carry (Sys2Proof/WellFormed.lean). -/

namespace Sys2Proof

/-- The entry points of the block and no others (R4, R92). -/
inductive Instr where
  /-- NEW: `new(pin, num_pixels)` (R152). -/
  | new (pin numPixels : Nat)
  /-- SET_PIXEL: `set_pixel(index, r, g, b)` (R154). -/
  | setPixel (index r g b : Int)
  /-- FILL_ALL: `fill_all(r, g, b)` (R155). -/
  | fillAll (r g b : Int)
  /-- CLEAR: `clear()` (R156). -/
  | clear
  /-- SHOW: `show()` (R159); the name avoids Lean's keyword. -/
  | showStrip
  /-- RELEASE: `release()` (R161, R162). -/
  | release
  deriving DecidableEq, Repr

end Sys2Proof
end

