-- ==== Sys2Proof/Machine/Dispatch.lean ====
section
/-! DEFINITION. The meaning of each command, one arm per constructor of Instr. -/

namespace Sys2Proof.Machine

def exec (i : Instr) (s : State) : Host.Outcome State Fault Refusal :=
  match i with
  | .new pin numPixels => Sys2Proof.Machine.execNew pin numPixels s
  | .setPixel index r g b => Sys2Proof.Machine.execSetPixel index r g b s
  | .fillAll r g b => Sys2Proof.Machine.execFillAll r g b s
  | .clear => Sys2Proof.Machine.execClear s
  | .showStrip => Sys2Proof.Machine.execShowStrip s
  | .release => Sys2Proof.Machine.execRelease s

end Sys2Proof.Machine
end

