-- ==== Sys2Proof/WellFormed.lean ====
section
/-! DEFINITION. Which commands have a command word: an operand outside its field's range has none and is not
wrapped into the field (R94, R95, D30). -/

namespace Sys2Proof

/-- The values of a signed operand field, -32768 to 32767 (R94). -/
abbrev FitsSigned (v : Int) : Prop := -32768 ≤ v ∧ v ≤ 32767

/-- The values of an unsigned operand field, 0 to 65535 (R94). -/
abbrev FitsUnsigned (v : Nat) : Prop := v ≤ 65535

/-- Every operand of the command fits its field (R93, R94, R95). -/
def Instr.wellFormed : Instr → Bool
  | .new pin n => decide (FitsUnsigned pin) && decide (FitsUnsigned n)
  | .setPixel i r g b =>
    decide (FitsSigned i) && decide (FitsSigned r) && decide (FitsSigned g) && decide (FitsSigned b)
  | .fillAll r g b => decide (FitsSigned r) && decide (FitsSigned g) && decide (FitsSigned b)
  | .clear => true
  | .showStrip => true
  | .release => true

/-- The command can be presented to the block as a command word. -/
abbrev Instr.WellFormed (i : Instr) : Prop := i.wellFormed = true

end Sys2Proof
end

