-- ==== Sys2Proof/Decode.lean ====
section
/-! DEFINITION. Decoding and encoding of command words (spec/30_encoding.md section 1), and the byte-wide
transport of R67. Decoding is total (R111) and refuses by name. -/

namespace Sys2Proof

/-- Why a word or a run of bytes is not a command. -/
inductive DecodeError where
  /-- the opcode is 0x00 or 0x07 to 0xFF (R97) -/
  | reservedOpcode (opcode : Byte)
  /-- a byte-wide transport ended before the nine bytes of a command word (R67, R110) -/
  | tooFewBytes (count : Nat)
  deriving DecidableEq, Repr

/-- `w[71:64]` (R91). -/
def opcodeField (w : CmdWord) : Byte := w.extractLsb' 64 8

/-- `w[63:48]` (R91). -/
def fieldA (w : CmdWord) : Field := w.extractLsb' 48 16

/-- `w[47:32]` (R91). -/
def fieldB (w : CmdWord) : Field := w.extractLsb' 32 16

/-- `w[31:16]` (R91). -/
def fieldC (w : CmdWord) : Field := w.extractLsb' 16 16

/-- `w[15:0]` (R91). -/
def fieldD (w : CmdWord) : Field := w.extractLsb' 0 16

/-- `sext_16` (R94): the value of a field read as two's complement. -/
def sext16 (v : Field) : Int := v.toInt

/-- `zext_16` (R94): the value of a field read as unsigned. -/
def zext16 (v : Field) : Nat := v.toNat

/-- The command a word stands for (R92, R93, R94, R96, R97, R111). -/
def decode (w : CmdWord) : Except DecodeError Instr :=
  match (opcodeField w).toNat with
  | 1 => .ok (.new (zext16 (fieldA w)) (zext16 (fieldB w)))
  | 2 => .ok (.setPixel (sext16 (fieldA w)) (sext16 (fieldB w)) (sext16 (fieldC w)) (sext16 (fieldD w)))
  | 3 => .ok (.fillAll (sext16 (fieldB w)) (sext16 (fieldC w)) (sext16 (fieldD w)))
  | 4 => .ok .clear
  | 5 => .ok .showStrip
  | 6 => .ok .release
  | _ => .error (.reservedOpcode (opcodeField w))

/-- A command word from its five fields (R91). -/
def packWord (opcode : Byte) (a b c d : Field) : CmdWord := opcode ++ a ++ b ++ c ++ d

/-- The opcode of each command (R92). -/
def opcodeOf : Instr → Byte
  | .new _ _ => 0x01#8
  | .setPixel _ _ _ _ => 0x02#8
  | .fillAll _ _ _ => 0x03#8
  | .clear => 0x04#8
  | .showStrip => 0x05#8
  | .release => 0x06#8

/-- The canonical command word of a well-formed command: ignored fields are 0 (R93, R96). -/
def encode (i : Instr) : CmdWord :=
  match i with
  | .new pin n => packWord (opcodeOf i) (BitVec.ofNat 16 pin) (BitVec.ofNat 16 n) 0 0
  | .setPixel x r g b =>
    packWord (opcodeOf i) (BitVec.ofInt 16 x) (BitVec.ofInt 16 r) (BitVec.ofInt 16 g) (BitVec.ofInt 16 b)
  | .fillAll r g b => packWord (opcodeOf i) 0 (BitVec.ofInt 16 r) (BitVec.ofInt 16 g) (BitVec.ofInt 16 b)
  | .clear => packWord (opcodeOf i) 0 0 0 0
  | .showStrip => packWord (opcodeOf i) 0 0 0 0
  | .release => packWord (opcodeOf i) 0 0 0 0

/-- The mask of every row of spec/opcode_table.json (R96). -/
def opcodeMask : CmdWord := 0xFF0000000000000000#72

/-- The `match` value of each row of spec/opcode_table.json. -/
def opcodeMatch : Instr → CmdWord
  | .new _ _ => 0x010000000000000000#72
  | .setPixel _ _ _ _ => 0x020000000000000000#72
  | .fillAll _ _ _ => 0x030000000000000000#72
  | .clear => 0x040000000000000000#72
  | .showStrip => 0x050000000000000000#72
  | .release => 0x060000000000000000#72

/-- The word with its ignored fields at 0, the form an assembler writes (R93, R96). -/
def canonicalWord (w : CmdWord) : CmdWord :=
  match (opcodeField w).toNat with
  | 1 => packWord (opcodeField w) (fieldA w) (fieldB w) 0 0
  | 2 => w
  | 3 => packWord (opcodeField w) 0 (fieldB w) (fieldC w) (fieldD w)
  | 4 => packWord (opcodeField w) 0 0 0 0
  | 5 => packWord (opcodeField w) 0 0 0 0
  | 6 => packWord (opcodeField w) 0 0 0 0
  | _ => w

/-- A 16-bit field on a byte-wide transport: most significant byte first (R67). -/
def fieldBytes (v : Field) : List Byte := [v.extractLsb' 8 8, v.extractLsb' 0 8]

/-- A command word on a byte-wide transport: the opcode byte, then `a`, `b`, `c`, `d`, big-endian (R67). -/
def wordBytes (w : CmdWord) : List Byte :=
  opcodeField w :: (fieldBytes (fieldA w) ++ fieldBytes (fieldB w) ++ fieldBytes (fieldC w) ++ fieldBytes (fieldD w))

/-- Read one command from the front of a run of bytes, with the rest of the run (R67). -/
def decodeBytes : List Byte → Except DecodeError (Instr × List Byte)
  | op :: a1 :: a0 :: b1 :: b0 :: c1 :: c0 :: d1 :: d0 :: rest =>
    match decode (packWord op (a1 ++ a0) (b1 ++ b0) (c1 ++ c0) (d1 ++ d0)) with
    | .ok i => .ok (i, rest)
    | .error e => .error e
  | bytes => .error (.tooFewBytes bytes.length)

/-- The command word of a table row's bits, bit 0 the least significant; bits above `nbits` are 0. -/
def tableWord (nbits w : Nat) : CmdWord := BitVec.ofNat 72 (w % 2 ^ nbits)

/-- What the decoder reads from a word numbered as spec/opcode_table.json numbers it. -/
def decodeTableWord (nbits w : Nat) : Option Instr :=
  match decode (tableWord nbits w) with
  | .ok i => some i
  | .error _ => none

end Sys2Proof
end

