-- ==== Sys2Proof/Machine/Inputs.lean ====
section
/-! DEFINITION. What a step does with the next input: a command word from the host (R90, R150), a claim or an
unclaim by another claimant (R36), the reset input (R250 to R252), a power cycle. Sys2Proof/Machine/Step.lean runs
the command, if there is one. -/

namespace Sys2Proof.Machine

/-- A step that ends no command has no response on the port (R90). -/
def idle (s : State) : State := { s with rsp := none }

/-- The block takes a command: `busy <- 1` until the response (R30, R90, R150). -/
def accept (rest : List Input) (s : State) : State :=
  { s with inputs := rest, busy := true, rsp := none }

/-- The block's own claim goes back to the allocator at a reset; the claims of others stay (R251, R40). -/
def withoutOwnClaim (s : State) : List Nat :=
  match ownPin s with
  | some p => removePin p s.claimed
  | none => s.claimed

/-- The reset input: every piece of the block's state takes its value of R40, the wire history counts anew, nothing
is sent, and the strip keeps its colours (R250, R251). -/
def resetBlock (s : State) : State :=
  { s with
    phase := .uninitialized, driver := none, ownsLine := false, status := .ok, busy := false
    line := .z, rsp := none, claimed := withoutOwnClaim s, wire := [] }

/-- The pixels a command has on the line while it runs: none for a command that does not commit (R23, R186). -/
def sending (i : Instr) (s : State) : Option (List Pixel) :=
  match i, s.phase, s.driver with
  | .new pin n, .uninitialized, _ =>
    if (allocate s.cfg pin s.claimed).isSome && decide (1 ≤ n) && decide (n ≤ s.cfg.maxPixels.toNat)
    then some (List.replicate n Pixel.black) else none
  | .showStrip, .ready, some d => some (pbAsSequence d.buf)
  | .release, .ready, some d => some (pbAsSequence (pbClear d.buf))
  | _, _, _ => none

/-- Reset ends a command with no response. A transmission in progress is truncated where it stood, which only the
strip still shows (R252, R187): each of its LEDs is as before or as sent. -/
def resetDuring (w : CmdWord) (s : State) : State :=
  match decode w with
  | .error _ => resetBlock s
  | .ok i =>
    match sending i s with
    | none => resetBlock s
    | some seq => { resetBlock (takeDraw s) with shown := latchTruncated s.freeIndex seq s.shown }

/-- A power cycle: the block as after reset, and the strip with colours no one knows (R5, R38, R251). -/
def powerCycle (s : State) : State :=
  { resetBlock s with shown := powerUpStrip s.freeIndex s.shown, freeIndex := s.freeIndex + 1 }

/-- Another claimant asks for a pin; a claim of a pin someone holds is rejected (R36, R71). -/
def claimByOther (pin : Nat) (s : State) : State :=
  { s with claimed := (allocate s.cfg pin s.claimed).getD s.claimed }

/-- Another claimant hands a pin back; it can never hand back the block's (R36). -/
def unclaimByOther (pin : Nat) (s : State) : State :=
  if ownPin s = some pin then s else { s with claimed := removePin pin s.claimed }

/-- What the next input comes to: a settled state, or a command to run in the state that has taken it. -/
inductive Action where
  | settle (s : State)
  | run (i : Instr) (s : State)
  deriving DecidableEq, Repr

/-- The word is taken and decoded; a reserved opcode changes nothing but the status (R97, R217). -/
def takeCommand (w : CmdWord) (rest : List Input) (s : State) : Action :=
  match decode w with
  | .ok i => .run i (accept rest s)
  | .error _ => .settle (respond .illegalCommand (accept rest s))

/-- Without an input the block idles (R235, R253). While busy it takes no command (R30), and the other claimants
act between the block's commands (R36); reset and power act at any time (R250). -/
def nextAction (s : State) : Action :=
  match s.inputs with
  | [] => .settle (idle s)
  | .reset :: rest => .settle (resetBlock { s with inputs := rest })
  | .resetDuring w :: rest =>
    if s.busy then .settle (resetBlock { s with inputs := rest })
    else .settle (resetDuring w { s with inputs := rest })
  | .powerCycle :: rest => .settle (powerCycle { s with inputs := rest })
  | .command w :: rest => if s.busy then .settle (idle s) else takeCommand w rest s
  | .otherClaim p :: rest =>
    if s.busy then .settle (idle s) else .settle (claimByOther p (idle { s with inputs := rest }))
  | .otherUnclaim p :: rest =>
    if s.busy then .settle (idle s) else .settle (unclaimByOther p (idle { s with inputs := rest }))

/-- The command word is the next the host presents, and the block is ready to take it (log 2). -/
def presentWord (w : CmdWord) (s : State) : State :=
  { s with inputs := .command w :: s.inputs, busy := false }

end Sys2Proof.Machine
end

