-- ==== Sys2Proof/Machine/Step.lean ====
section
/-! DEFINITION. One step of the machine: the next input is taken whole (R6, R69, R74). -/

namespace Sys2Proof.Machine

/-- One step (R6, R150). -/
def step (s : State) : Host.Outcome State Fault Refusal :=
  match nextAction s with
  | .settle t => .next t
  | .run i t => exec i t

/-- The state with a table row's word presented on the command port (log 2). -/
def State.withFetchWord (s : State) (nbits w : Nat) : State := presentWord (tableWord nbits w) s

end Sys2Proof.Machine
end

