-- ==== Sys2Proof/Machine/Debug.lean ====
section
/-! DEFINITION. The read-only debug view of R234. It is no command, changes nothing, and is meaningful only while
`busy = 0`. -/

namespace Sys2Proof.Machine

/-- `dbg_buf(i)`: cell `i` as (R, G, B); none where the buffer or the cell does not exist. -/
def dbgBuf (s : State) (i : Nat) : Option Pixel :=
  match s.driver with
  | some d => d.buf[i]?
  | none => none

/-- `dbg_phase`. -/
def dbgPhase (s : State) : BitVec 2 := phaseCode s.phase

/-- `dbg_num_pixels`; none where the register has no value. -/
def dbgNumPixels (s : State) : Option Field := s.driver.map fun d => BitVec.ofNat 16 d.numPixels

/-- `dbg_status`. -/
def dbgStatus (s : State) : BitVec 4 := statusCode s.status

/-- `dbg_owns_line`. -/
def dbgOwnsLine (s : State) : Bool := s.ownsLine

/-- `tx_count` (R37), which a test double reads (R233). -/
def txCount (s : State) : Nat := s.wire.length

end Sys2Proof.Machine
end

