-- ==== Sys2Proof/Machine/Pulse.lean ====
section
/-! DEFINITION. The pulse level (R107 to R109, R183, R188, R226, R266, R267): what the line does in time, for one
transmission, for the whole wire history, and tick by tick. It is a view of the wire history; no meaning reads it, and
no rule of the block depends on a duration (R190). The shape of a symbol is the spec's choice, marked there as general
knowledge (log 7). -/

namespace Sys2Proof.Machine

/-- A stretch of the line at one level, in ticks (R109). -/
structure Segment where
  high : Bool
  ticks : Nat
  deriving DecidableEq, Repr

/-- How much longer than `TRES` the low periods of a transmission last, before its first symbol where there is such a
period, and after its last: the spec leaves both open (R109, U9). -/
structure Slack where
  lead : Nat
  gap : Nat
  deriving DecidableEq, Repr

/-- `Symbol(b)`: high, then low (R107). -/
def symbol (t : Timing) (b : Bool) : List Segment :=
  if b then [{ high := true, ticks := t.t1h }, { high := false, ticks := t.t1l }]
  else [{ high := true, ticks := t.t0h }, { high := false, ticks := t.t0l }]

/-- The symbols of a run of bits, with no gap between them (R184). -/
def dataWave (t : Timing) (bits : List Bool) : List Segment := bits.flatMap (symbol t)

/-- A low period of `TRES` ticks or more: `extra` more (R108, R109, R183). -/
def lowPeriod (t : Timing) (extra : Nat) : Segment := { high := false, ticks := t.tres + extra }

/-- `Wave(seq)` of the bits of a complete transmission: the symbols and the closing gap (R108, R109). -/
def wave (t : Timing) (bits : List Bool) (extra : Nat) : List Segment := dataWave t bits ++ [lowPeriod t extra]

/-- The low period the block keeps before a transmission that has no closing gap before it: NEW's (R183), and one
after a fault (R188). -/
def leadWave (t : Timing) (lead : Bool) (extra : Nat) : List Segment := if lead then [lowPeriod t extra] else []

/-- What the wire carried for one entry of the wire history: the whole waveform of a complete transmission, and
the symbols of the whole bits of a truncated one (R109, R187). DESIGN CHOICE (log 18): the view puts nothing after those
symbols, neither a partial symbol nor a high level, where the spec leaves both open (U8). -/
def transmissionWave (t : Timing) (x : Transmission) (extra : Nat) : List Segment :=
  if x.complete then wave t x.bits extra else dataWave t x.bits

/-- What the block drove for a run of the wire history, each entry with its slack. `lead` says whether the first entry
needs a low period before it; an entry after a truncated one always does (R188), which in this view follows the
whole bits at once (log 18); one after a complete one has the closing gap of that one before it (R183). -/
def historyWave (t : Timing) (lead : Bool) : List (Transmission × Slack) → List Segment
  | [] => []
  | (x, k) :: more => leadWave t lead k.lead ++ transmissionWave t x k.gap ++ historyWave t (!x.complete) more

/-- How a receiver takes the line apart (R106, R259). Three points are the model's choice, for the spec leaves them open
(log 7): a high part longer than that of a 0 symbol is a 1; a gap of `TRES` or more with no bit before it ends no
transmission and is reported as none; the bits after the last gap are reported last, ended or not. `low` is how long
the line has been low, `bits` what has come since the last gap. -/
def receive (t : Timing) (bits : List Bool) (low : Nat) : List Segment → List (List Bool)
  | [] => if bits.isEmpty then [] else [bits]
  | x :: more =>
    if x.high then
      if decide (t.tres ≤ low) && !bits.isEmpty then bits :: receive t [decide (t.t0h < x.ticks)] 0 more
      else receive t (bits ++ [decide (t.t0h < x.ticks)]) 0 more
    else receive t bits (low + x.ticks) more

/-- The level of the line in every tick of a run of segments. -/
def levels (w : List Segment) : List Bool := w.flatMap fun x => List.replicate x.ticks x.high

/-- Where the serializer is inside a transmission: in the low period before it, in the high or the low part of the
symbol at the cursor (R31), or in the closing gap, where the cursor has ceased to exist. -/
inductive Stage where
  | lead
  | high (c : Cursor)
  | low (c : Cursor)
  | gap
  deriving DecidableEq, Repr

/-- The serializer inside a transmission, with the tick counter, which starts at 0 in each segment (R226). None of it
outlives the command's one step, so State does not hold it. -/
structure Serial where
  stage : Stage
  ticks : Nat
  deriving DecidableEq, Repr

/-- Where the serializer starts: at the low period, if the transmission has one before it, or at the first symbol. -/
def serialStart (lead : Bool) : Serial :=
  { stage := if lead then .lead else .high cursorStart, ticks := 0 }

/-- The level the block drives. -/
def stageHigh : Stage → Bool
  | .lead => false
  | .high _ => true
  | .low _ => false
  | .gap => false

/-- How many ticks the counter measures in a stage (R107, R108, R183, R226). -/
def stageTicks (t : Timing) (k : Slack) (o : ChannelOrder) (seq : List Pixel) : Stage → Nat
  | .lead => t.tres + k.lead
  | .high c => if cursorBit o seq c then t.t1h else t.t0h
  | .low c => if cursorBit o seq c then t.t1l else t.t0l
  | .gap => t.tres + k.gap

/-- What follows a stage: after the high part the low part, after that the next bit at once (R107, R184), after the last
bit the closing gap (R108), after the gap nothing. -/
def stageNext (numPixels : Nat) : Stage → Option Stage
  | .lead => some (.high cursorStart)
  | .high c => some (.low c)
  | .low c =>
    match cursorNext numPixels c with
    | some c' => some (.high c')
    | none => some .gap
  | .gap => none

/-- One tick: the counter runs to the end of the segment, and starts again at 0 in the next (R226). -/
def serialTick (t : Timing) (k : Slack) (o : ChannelOrder) (seq : List Pixel) (x : Serial) : Option Serial :=
  if x.ticks + 1 < stageTicks t k o seq x.stage then some { x with ticks := x.ticks + 1 }
  else (stageNext seq.length x.stage).map fun g => { stage := g, ticks := 0 }

/-- The levels the serializer puts on the line, for at most the given number of ticks. -/
def serialWalk (t : Timing) (k : Slack) (o : ChannelOrder) (seq : List Pixel) : Nat → Option Serial → List Bool
  | 0, _ => []
  | _ + 1, none => []
  | fuel + 1, some x => stageHigh x.stage :: serialWalk t k o seq fuel (serialTick t k o seq x)

/-- The length of a run of segments, in ticks. -/
def duration (w : List Segment) : Nat := (w.map Segment.ticks).sum

/-- The period of one symbol (R266). -/
def symbolTicks (t : Timing) (b : Bool) : Nat := if b then t.t1h + t.t1l else t.t0h + t.t0l

/-- A duration in nanoseconds as a number of ticks, rounded (R267). -/
def ticksOf (fClk nanoseconds : Nat) : Nat := (nanoseconds * fClk + 500000000) / 1000000000

/-- UNVERIFIED (log 7). The nominal figures of R267 for WS2812B-class devices, general knowledge in the spec too. -/
def nominalTiming (fClk tres : Nat) : Timing where
  t0h := ticksOf fClk 400
  t0l := ticksOf fClk 850
  t1h := ticksOf fClk 800
  t1l := ticksOf fClk 450
  tres := tres

end Sys2Proof.Machine
end

