-- ==== Sys2Proof/Machine/Text.lean ====
section
/-! DEFINITION. The text form of commands and programs (R100), as characters, and its assembly into command words
(R95, R96). The machine does not read text: this is the assembler's side of the block. -/

namespace Sys2Proof.Machine

/-- A decimal numeral. -/
def printNat (n : Nat) : List Char := Nat.toDigits 10 n

/-- A decimal integer with an optional leading minus sign (R100). -/
def printInt (v : Int) : List Char :=
  if v < 0 then '-' :: printNat v.natAbs else printNat v.natAbs

/-- The entry-point names, in lower case (R100). -/
def commandName : Instr → List Char
  | .new _ _ => ['n', 'e', 'w']
  | .setPixel _ _ _ _ => ['s', 'e', 't', '_', 'p', 'i', 'x', 'e', 'l']
  | .fillAll _ _ _ => ['f', 'i', 'l', 'l', '_', 'a', 'l', 'l']
  | .clear => ['c', 'l', 'e', 'a', 'r']
  | .showStrip => ['s', 'h', 'o', 'w']
  | .release => ['r', 'e', 'l', 'e', 'a', 's', 'e']

/-- The operands of a command, in the source's order (R93). -/
def operandsOf : Instr → List Int
  | .new pin n => [pin, n]
  | .setPixel i r g b => [i, r, g, b]
  | .fillAll r g b => [r, g, b]
  | .clear => []
  | .showStrip => []
  | .release => []

/-- The operands' names, which a text may write before them (R100). -/
def operandNames : Instr → List (List Char)
  | .new _ _ => [['p', 'i', 'n'], ['n', 'u', 'm', '_', 'p', 'i', 'x', 'e', 'l', 's']]
  | .setPixel _ _ _ _ => [['i', 'n', 'd', 'e', 'x'], ['r'], ['g'], ['b']]
  | .fillAll _ _ _ => [['r'], ['g'], ['b']]
  | .clear => []
  | .showStrip => []
  | .release => []

/-- Operands separated by a comma and a space, as the source writes them. -/
def printOperands : List Int → List Char
  | [] => []
  | [v] => printInt v
  | v :: vs => printInt v ++ ',' :: ' ' :: printOperands vs

/-- The text of a command (R100). -/
def printCommand (i : Instr) : List Char :=
  commandName i ++ '(' :: (printOperands (operandsOf i) ++ [')'])

/-- Drop the spaces around a text. -/
def trim (text : List Char) : List Char :=
  ((text.dropWhile (· = ' ')).reverse.dropWhile (· = ' ')).reverse

/-- Cut a text at every occurrence of a separator. -/
def cutAt (sep : Char) : List Char → List (List Char)
  | [] => [[]]
  | c :: cs =>
    if c = sep then [] :: cutAt sep cs
    else
      match cutAt sep cs with
      | [] => [[c]]
      | w :: ws => (c :: w) :: ws

/-- The value of a run of decimal digits after the digits read so far. -/
def parseDigits (acc : Nat) : List Char → Option Nat
  | [] => some acc
  | c :: cs => if c.isDigit then parseDigits (acc * 10 + (c.toNat - 48)) cs else none

/-- A decimal integer with an optional leading minus sign (R100). -/
def parseInt : List Char → Option Int
  | [] => none
  | '-' :: [] => none
  | '-' :: cs => (parseDigits 0 cs).map fun n : Nat => -(n : Int)
  | cs => (parseDigits 0 cs).map fun n : Nat => (n : Int)

/-- An operand may be written by name, `pin=0` for `0` (R100). -/
def withoutName (name text : List Char) : List Char :=
  if (name ++ ['=']).isPrefixOf text then text.drop (name.length + 1) else text

/-- As many operands as there are names, each an integer. -/
def parseOperands : List (List Char) → List (List Char) → Option (List Int)
  | [], [] => some []
  | name :: names, text :: texts =>
    match parseInt (withoutName name (trim text)), parseOperands names texts with
    | some v, some vs => some (v :: vs)
    | _, _ => none
  | _, _ => none

/-- One command of each kind: its name and its operands' names are those of the kind. -/
def commandKinds : List Instr := [.new 0 0, .setPixel 0 0 0 0, .fillAll 0 0 0, .clear, .showStrip, .release]

/-- A command of a kind with its operands; a negative `pin` or `num_pixels` has no meaning (R95). -/
def withOperands (kind : Instr) (vs : List Int) : Option Instr :=
  match kind, vs with
  | .new _ _, [p, n] => if 0 ≤ p ∧ 0 ≤ n then some (.new p.toNat n.toNat) else none
  | .setPixel _ _ _ _, [i, r, g, b] => some (.setPixel i r g b)
  | .fillAll _ _ _, [r, g, b] => some (.fillAll r g b)
  | .clear, [] => some .clear
  | .showStrip, [] => some .showStrip
  | .release, [] => some .release
  | _, _ => none

/-- The operands' texts between the parentheses. -/
def operandTexts (inside : List Char) : List (List Char) :=
  if trim inside = [] then [] else cutAt ',' inside

/-- Read one command from its text (R100). -/
def parseCommand (text : List Char) : Option Instr :=
  let line := trim text
  let name := line.takeWhile (· ≠ '(')
  match commandKinds.find? (fun k => decide (commandName k = name)), line.drop name.length with
  | some kind, '(' :: rest =>
    if rest.getLast? = some ')' then
      match parseOperands (operandNames kind) (operandTexts rest.dropLast) with
      | some vs => withOperands kind vs
      | none => none
    else none
  | _, _ => none

/-- The command word of a text; an operand that does not fit its field has none and is not wrapped (R95, R96). -/
def assemble (text : List Char) : Option CmdWord :=
  match parseCommand text with
  | some i => if i.wellFormed then some (encode i) else none
  | none => none

/-- A program: one command per line, executed in order, as what the host presents (R100). -/
def assembleProgram (text : List Char) : Option (List Input) :=
  ((cutAt '\n' text).filter fun line => !decide (trim line = [])).mapM fun line => (assemble line).map Input.command

/-- The name of a status, as a transcript writes it after the arrow (R98, R100). -/
def statusName : Status → String
  | .ok => "Ok"
  | .invalidConfiguration => "InvalidConfiguration"
  | .peripheralUnavailable => "PeripheralUnavailable"
  | .indexOutOfRange => "IndexOutOfRange"
  | .useAfterRelease => "UseAfterRelease"
  | .transmitFault => "TransmitFault"
  | .wrongPhase => "WrongPhase"
  | .illegalCommand => "IllegalCommand"

end Sys2Proof.Machine
end

