-- ==== Sys2Proof/Safety.lean ====
section
/-! DEFINITION. What counts as a good state and as a safe step, in the terms the statements use. -/

namespace Sys2Proof.Machine

/-- The driver exists and has the property. -/
def driverHas (s : State) (p : Driver → Bool) : Bool :=
  match s.driver with
  | some d => p d
  | none => false

/-- The Pixel Buffer's invariant (R136 a, R26): `len(buf) = num_pixels`, from 1 to `MAX_PIXELS`, and the pin is
16 bits wide (R27). -/
def driverFits (c : Config) (d : Driver) : Bool :=
  decide (d.buf.length = d.numPixels) && decide (1 ≤ d.numPixels) &&
    decide (d.numPixels ≤ c.maxPixels.toNat) && decide (d.pin < 65536)

/-- Every cell of the buffer is (0, 0, 0). -/
def allBlack (buf : List Pixel) : Bool := buf.all fun p => decide (p = Pixel.black)

/-- The allocator's set in its canonical form: strictly rising pin ids of 16 bits. -/
abbrev ClaimsCanonical (claimed : List Nat) : Prop :=
  claimed.Pairwise (· < ·) ∧ ∀ p ∈ claimed, p < 65536

/-- What exists in each phase (R28, R41, R224). -/
def phaseShape (s : State) : Bool :=
  match s.phase with
  | .uninitialized => s.driver.isNone && !s.ownsLine
  | .ready => driverHas s (fun d => driverFits s.cfg d && s.claimed.contains d.pin) && s.ownsLine
  | .released => driverHas s (fun d => driverFits s.cfg d && allBlack d.buf) && !s.ownsLine

/-- The line is undriven exactly while the block does not hold it, and rests low while it does, but for the level
a fault may have left (R32, R188). -/
def lineShape (s : State) : Bool :=
  match s.ownsLine with
  | false => decide (s.line = .z)
  | true =>
    match s.wire.getLast? with
    | none => false
    | some x => decide (s.line ≠ .z) && (!x.complete || decide (s.line = .low))

/-- Every complete transmission of the driver has `24 * num_pixels` bits, and before a driver exists none is
complete (R110, R153). -/
def wireShape (s : State) : Bool :=
  match s.driver with
  | none => s.wire.all fun x => !x.complete
  | some d => s.wire.all fun x => !x.complete || decide (x.bits.length = 24 * d.numPixels)

/-- What holds of the state before, during and after a command: the shapes above. -/
abbrev State.Shape (s : State) : Prop :=
  ClaimsCanonical s.claimed ∧ phaseShape s = true ∧ lineShape s = true ∧ wireShape s = true

/-- The invariant of the machine between steps; a command runs inside one step (R6), so the block is not busy. -/
abbrev State.Inv (s : State) : Prop := s.busy = false ∧ s.Shape

/-- The command invokes Transmit in this state (R23, R186). -/
def invokesTransmit (i : Instr) (s : State) : Bool :=
  match i, s.phase with
  | .new pin n, .uninitialized => pinClaimable s.cfg pin && !s.claimed.contains pin && decide (1 ≤ n)
  | .showStrip, .ready => true
  | .release, .ready => true
  | _, _ => false

/-- The inputs are command words only, and none is a NEW beyond `MAX_PIXELS`, which has no meaning (R131). -/
def onlyCommands (c : Config) (inputs : List Input) : Prop :=
  ∀ x ∈ inputs, ∃ w, x = .command w ∧ ∀ p n, decode w = .ok (.new p n) → n ≤ c.maxPixels.toNat

/-- The inputs hold no reset and no power cycle. -/
def noReset (inputs : List Input) : Prop :=
  ∀ x ∈ inputs, x ≠ .reset ∧ x ≠ .powerCycle ∧ ∀ w, x ≠ .resetDuring w

/-- A state as a command left it, whatever it answered: the fields every command writes are set aside (R219). -/
abbrev SameButAnswer (s t : State) : Prop :=
  t = { s with status := t.status, busy := t.busy, rsp := t.rsp }

end Sys2Proof.Machine
end

