-- ==== Sys2Proof/Certificates/Slice0/Obligations.lean ====
section
/-! DEFINITION. The statements for the provers, in the order of spec/: encoding, dispatch, the six commands, errors,
the serializer, the pulses, the platform, reset, and the rules of the whole machine. -/

open Sys2Proof Sys2Proof.Machine

/-! ### Encoding -/

/-- R111, R91 to R94: a command's word decodes to that command, with every operand at every value its field admits. -/
def Obligations.EncodedCommandsDecodeBack : Prop :=
  ∀ i : Instr, i.WellFormed → decode (encode i) = .ok i

/-- R91, R93, R94, R96: a word that decodes at all decodes to a command with encodable operands, whose canonical word
is the word with its ignored fields at 0. -/
def Obligations.DecodedWordsReencodeCanonically : Prop :=
  ∀ (w : CmdWord) (i : Instr), decode w = .ok i → i.WellFormed ∧ encode i = canonicalWord w

/-- R111: every word is a command of R92 with operands read as R93 and R94 say, or it is reserved. -/
def Obligations.DecodingIsTotalByOpcode : Prop :=
  ∀ w : CmdWord,
    (w.extractLsb' 64 8 = 0x01#8 → decode w = .ok (.new (w.extractLsb' 48 16).toNat (w.extractLsb' 32 16).toNat)) ∧
    (w.extractLsb' 64 8 = 0x02#8 → decode w = .ok (.setPixel (w.extractLsb' 48 16).toInt (w.extractLsb' 32 16).toInt
      (w.extractLsb' 16 16).toInt (w.extractLsb' 0 16).toInt)) ∧
    (w.extractLsb' 64 8 = 0x03#8 → decode w = .ok (.fillAll (w.extractLsb' 32 16).toInt (w.extractLsb' 16 16).toInt
      (w.extractLsb' 0 16).toInt)) ∧
    (w.extractLsb' 64 8 = 0x04#8 → decode w = .ok .clear) ∧
    (w.extractLsb' 64 8 = 0x05#8 → decode w = .ok .showStrip) ∧
    (w.extractLsb' 64 8 = 0x06#8 → decode w = .ok .release) ∧
    ((w.extractLsb' 64 8 = 0x00#8 ∨ 0x07#8 ≤ w.extractLsb' 64 8) →
      decode w = .error (.reservedOpcode (w.extractLsb' 64 8)))

/-- R96: the fields a command ignores change nothing in what its word means, an encoded word holds 0 in them, and the
mask of every row of the opcode table covers the opcode byte only. -/
def Obligations.IgnoredFieldsHaveNoEffect : Prop :=
  (∀ a b c d c' d' : Field, decode (packWord 0x01#8 a b c d) = decode (packWord 0x01#8 a b c' d')) ∧
  (∀ a b c d a' : Field, decode (packWord 0x03#8 a b c d) = decode (packWord 0x03#8 a' b c d)) ∧
  (∀ op : Byte, op = 0x04#8 ∨ op = 0x05#8 ∨ op = 0x06#8 → ∀ a b c d a' b' c' d' : Field,
    decode (packWord op a b c d) = decode (packWord op a' b' c' d')) ∧
  (∀ p n : Nat, fieldC (encode (.new p n)) = 0 ∧ fieldD (encode (.new p n)) = 0) ∧
  (∀ r g b : Int, fieldA (encode (.fillAll r g b)) = 0) ∧
  encode .clear = packWord 0x04#8 0 0 0 0 ∧ encode .showStrip = packWord 0x05#8 0 0 0 0 ∧
  encode .release = packWord 0x06#8 0 0 0 0 ∧
  (∀ (w : CmdWord) (i : Instr), decode w = .ok i → w &&& 0xFF0000000000000000#72 = opcodeMatch i)

/-- R91 to R94, R97: a word for each command, and a reserved one, decode to what those rules give. All of them stand in
spec/95_test_vectors.md section 2.2 but the FILL_ALL word, put together from two of its words. -/
def Obligations.SampleWordsDecode : Prop :=
  decode 0x01FFFFFFFF00000000#72 = .ok (.new 65535 65535) ∧
  decode 0x020000012CFFF60080#72 = .ok (.setPixel 0 300 (-10) 128) ∧
  decode 0x03ABCDFFFB03E70007#72 = .ok (.fillAll (-5) 999 7) ∧
  decode 0x04FFFFFFFFFFFFFFFF#72 = .ok .clear ∧
  decode 0x05DEADBEEF12345678#72 = .ok .showStrip ∧
  decode 0x060000000000000000#72 = .ok .release ∧
  decode 0x810000000500000000#72 = .error (.reservedOpcode 0x81#8)

/-- R67: on a byte-wide transport the opcode byte goes first and each field goes most significant byte first; what
follows the nine bytes is left, and fewer bytes are no command. -/
def Obligations.TransportIsBigEndian : Prop :=
  (∀ (op a1 a0 b1 b0 c1 c0 d1 d0 : Byte),
    wordBytes (packWord op (a1 ++ a0) (b1 ++ b0) (c1 ++ c0) (d1 ++ d0)) = [op, a1, a0, b1, b0, c1, c0, d1, d0]) ∧
  (∀ (w : CmdWord) (rest : List Byte) (i : Instr), decode w = .ok i → decodeBytes (wordBytes w ++ rest) = .ok (i, rest)) ∧
  (∀ (w : CmdWord) (rest : List Byte) (e : DecodeError), decode w = .error e →
    decodeBytes (wordBytes w ++ rest) = .error e) ∧
  (∀ bytes : List Byte, bytes.length < 9 → decodeBytes bytes = .error (.tooFewBytes bytes.length))

/-- R100: the text of a command reads back as that command, for operands of any size. -/
def Obligations.CommandTextReadsBack : Prop :=
  ∀ i : Instr, parseCommand (printCommand i) = some i

/-! ### The step and the dispatch -/

/-- R90, R150: a step that finds a command word on the port of an idle block takes the word, is busy with no response
yet, and runs the command the word decodes to; the word withFetchWord presents is taken in the same way. -/
def Obligations.StepRunsThePresentedCommand : Prop :=
  (∀ (s : State) (w : CmdWord) (rest : List Input) (i : Instr),
    s.busy = false → s.inputs = .command w :: rest → decode w = .ok i →
    step s = exec i { s with inputs := rest, busy := true, rsp := none }) ∧
  (∀ (s : State) (w : CmdWord) (i : Instr), decode w = .ok i →
    step (s.withFetchWord 72 w.toNat) = exec i { s with busy := true, rsp := none })

/-- R97, R217: a reserved opcode changes no state but the status, code 7, in every phase. -/
def Obligations.ReservedOpcodeAnswersIllegalCommand : Prop :=
  statusCode .illegalCommand = 7#4 ∧
  ∀ (s : State) (w : CmdWord) (rest : List Input), s.busy = false → s.inputs = .command w :: rest →
    (opcodeField w = 0x00#8 ∨ 0x07#8 ≤ opcodeField w) →
    step s = .next { s with inputs := rest, status := .illegalCommand, busy := false, rsp := some .illegalCommand }

/-- R30, R90, R235: a busy block takes no command, a block without an input idles, and every command that answers
leaves the block not busy. -/
def Obligations.BusyLastsFromAcceptanceToResponse : Prop :=
  (∀ (s : State) (w : CmdWord) (rest : List Input), s.busy = true → s.inputs = .command w :: rest →
    step s = .next { s with rsp := none }) ∧
  (∀ s : State, s.inputs = [] → step s = .next { s with rsp := none }) ∧
  (∀ (i : Instr) (s t : State), exec i s = .next t → t.busy = false)

/-- R29: every command writes `status` when it ends, the response carries it, its code is one of 0 to 7, and no
command's effect depends on the status before it. -/
def Obligations.StatusIsWrittenAndNeverRead : Prop :=
  (∀ (i : Instr) (s t : State), exec i s = .next t → t.rsp = some t.status) ∧
  (∀ st : Status, (statusCode st).toNat ≤ 7) ∧
  (∀ (i : Instr) (s : State) (st : Status), exec i { s with status := st } = exec i s)

/-- R216: a command other than NEW in `Uninitialized`, and NEW in `Ready`, answer `WrongPhase`, code 6, and nothing
else changes. -/
def Obligations.CommandsOutOfPlaceAnswerWrongPhase : Prop :=
  statusCode .wrongPhase = 6#4 ∧
  (∀ (i : Instr) (s : State), s.phase = .uninitialized → (∀ p n, i ≠ .new p n) →
    exec i s = .next { s with status := .wrongPhase, busy := false, rsp := some .wrongPhase }) ∧
  (∀ (p n : Nat) (s : State), s.phase = .ready →
    exec (.new p n) s = .next { s with status := .wrongPhase, busy := false, rsp := some .wrongPhase })

/-- R214: on a released driver every command but RELEASE answers `UseAfterRelease`, code 4, and nothing else changes;
RELEASE does not raise it. -/
def Obligations.ReleasedDriverRejectsCommands : Prop :=
  statusCode .useAfterRelease = 4#4 ∧
  (∀ (i : Instr) (s : State), s.phase = .released → i ≠ .release →
    exec i s = .next { s with status := .useAfterRelease, busy := false, rsp := some .useAfterRelease }) ∧
  (∀ s t : State, exec .release s = .next t → t.status ≠ .useAfterRelease)

/-- R162: RELEASE on a released driver answers `Ok` and does nothing. -/
def Obligations.SecondReleaseIsNoOp : Prop :=
  ∀ s : State, s.phase = .released →
    exec .release s = .next { s with status := .ok, busy := false, rsp := some .ok }

/-- R163: the phase transitions, all of them: those of the commands, and reset in each of its forms (R250, R252). -/
def Obligations.PhaseTransitionsAreExactlyThese : Prop :=
  (∀ (i : Instr) (s t : State), exec i s = .next t →
    (s.phase = .uninitialized → (∃ p n, i = .new p n) → t.status = .ok → t.phase = .ready) ∧
    (s.phase = .uninitialized → ¬ ((∃ p n, i = .new p n) ∧ t.status = .ok) → t.phase = .uninitialized) ∧
    (s.phase = .ready → t.phase = if i = .release then .released else .ready) ∧
    (s.phase = .released → t.phase = .released)) ∧
  (∀ (s t : State) (x : Input) (rest : List Input), s.inputs = x :: rest →
    x = .reset ∨ x = .powerCycle ∨ (∃ w, x = .resetDuring w) → step s = .next t → t.phase = .uninitialized)

/-! ### NEW -/

/-- R152: NEW in `Uninitialized`. The pin is asked for first; 0 pixels hand it back; otherwise the driver is made and
an all-zero transmission goes out, whose fault undoes the construction. Elsewhere the dispatch rejects it. -/
def Obligations.NewClaimsConstructsAndCommits : Prop :=
  ∀ (p n : Nat) (s : State),
    (s.phase = .ready →
      exec (.new p n) s = .next { s with status := .wrongPhase, busy := false, rsp := some .wrongPhase }) ∧
    (s.phase = .released →
      exec (.new p n) s = .next { s with status := .useAfterRelease, busy := false, rsp := some .useAfterRelease }) ∧
    (s.phase = .uninitialized → (pinClaimable s.cfg p = false ∨ p ∈ s.claimed) →
      exec (.new p n) s = .next
        { s with status := .peripheralUnavailable, busy := false, rsp := some .peripheralUnavailable }) ∧
    (s.phase = .uninitialized → pinClaimable s.cfg p = true → p ∉ s.claimed → n = 0 →
      exec (.new p n) s = .next
        { s with status := .invalidConfiguration, busy := false, rsp := some .invalidConfiguration
                 ownsLine := false, line := .z }) ∧
    (s.phase = .uninitialized → pinClaimable s.cfg p = true → p ∉ s.claimed → 1 ≤ n → n ≤ s.cfg.maxPixels.toNat →
      nextDraw s = none →
      exec (.new p n) s = .next
        { s with status := .ok, busy := false, rsp := some .ok, phase := .ready, ownsLine := true, line := .low
                 driver := some { pin := p, numPixels := n, buf := List.replicate n { r := 0, g := 0, b := 0 } }
                 claimed := insertPin p s.claimed
                 wire := s.wire ++ [{ bits := List.replicate (24 * n) false, complete := true }]
                 shown := latchComplete (List.replicate n { r := 0, g := 0, b := 0 }) s.shown
                 draws := s.draws.tail, freeIndex := s.freeIndex + 1 }) ∧
    (s.phase = .uninitialized → pinClaimable s.cfg p = true → p ∉ s.claimed → 1 ≤ n → n ≤ s.cfg.maxPixels.toNat →
      ∀ k, nextDraw s = some k →
      exec (.new p n) s = .next
        { s with status := .transmitFault, busy := false, rsp := some .transmitFault, driver := none
                 ownsLine := false, line := .z
                 wire := s.wire ++ [{ bits := List.replicate (min k (24 * n)) false, complete := false }]
                 shown := latchTruncated s.freeIndex (List.replicate n { r := 0, g := 0, b := 0 }) s.shown
                 draws := s.draws.tail, freeIndex := s.freeIndex + 1 })

/-- R131, U13: NEW of more pixels than the realisation holds has no meaning, and the model says so by name. -/
def Obligations.NewBeyondMaxPixelsIsRefused : Prop :=
  ∀ (p n : Nat) (s : State), s.phase = .uninitialized → pinClaimable s.cfg p = true → p ∉ s.claimed →
    s.cfg.maxPixels.toNat < n → exec (.new p n) s = .refused .tooManyPixels

/-- R153: after a NEW that returned anything but `Ok` the block is as after reset, but for the status and one
incomplete entry in the wire history if the initial commit faulted; the allocator is as it was. -/
def Obligations.FailedNewLeavesNoDriver : Prop :=
  ∀ (p n : Nat) (s t : State), s.Shape → s.phase = .uninitialized → exec (.new p n) s = .next t → t.status ≠ .ok →
    t.phase = State.reset.phase ∧ t.driver = State.reset.driver ∧ t.ownsLine = State.reset.ownsLine ∧
    t.busy = State.reset.busy ∧ t.line = State.reset.line ∧ t.claimed = s.claimed ∧
    (t.wire = s.wire ∨
      t.status = .transmitFault ∧ ∃ bits, t.wire = s.wire ++ [{ bits := bits, complete := false }])

/-! ### SET_PIXEL, FILL_ALL, CLEAR -/

/-- R154, R132, R213: SET_PIXEL in `Ready` stores the clamped colour in the one cell, or reports the index and
changes nothing, whatever the channels. -/
def Obligations.SetPixelStoresOrReportsIndex : Prop :=
  ∀ (i r g b : Int) (s : State) (d : Driver), s.phase = .ready → s.driver = some d →
    exec (.setPixel i r g b) s = .next
      (if 0 ≤ i ∧ i < d.numPixels then
        { s with
          driver := some { d with buf := d.buf.set i.toNat { r := clamp8 r, g := clamp8 g, b := clamp8 b } }
          status := .ok, busy := false, rsp := some .ok }
      else { s with status := .indexOutOfRange, busy := false, rsp := some .indexOutOfRange })

/-- R154, R234 and the source's property S1: reading a cell after SET_PIXEL gives the clamped triple, and every other
cell reads as before. -/
def Obligations.SetPixelThenReadGivesClampedTriple : Prop :=
  ∀ (i r g b : Int) (s : State) (d : Driver), s.Shape → s.phase = .ready → s.driver = some d →
    0 ≤ i → i < d.numPixels →
    ∃ t, exec (.setPixel i r g b) s = .next t ∧ t.status = .ok ∧
      (∃ p, dbgBuf t i.toNat = some p ∧ (p.r.toNat : Int) = max 0 (min 255 r) ∧
        (p.g.toNat : Int) = max 0 (min 255 g) ∧ (p.b.toNat : Int) = max 0 (min 255 b)) ∧
      ∀ j, j ≠ i.toNat → dbgBuf t j = dbgBuf s j

/-- R155, R133: FILL_ALL in `Ready` gives every cell the clamped colour. -/
def Obligations.FillAllStoresOneColourEverywhere : Prop :=
  ∀ (r g b : Int) (s : State) (d : Driver), s.Shape → s.phase = .ready → s.driver = some d →
    exec (.fillAll r g b) s = .next
      { s with
        driver := some { d with buf := List.replicate d.numPixels { r := clamp8 r, g := clamp8 g, b := clamp8 b } }
        status := .ok, busy := false, rsp := some .ok }

/-- R156, R134: CLEAR in `Ready` makes every cell (0, 0, 0), and the line and the wire stay as they are. -/
def Obligations.ClearBlackensEveryCell : Prop :=
  ∀ (s : State) (d : Driver), s.Shape → s.phase = .ready → s.driver = some d →
    exec .clear s = .next
      { s with
        driver := some { d with buf := List.replicate d.numPixels { r := 0, g := 0, b := 0 } }
        status := .ok, busy := false, rsp := some .ok }

/-- R157: CLEAR is FILL_ALL of (0, 0, 0) in every phase: the same status and the same state, which are those of R157. -/
def Obligations.ClearIsFillAllZero : Prop :=
  ∀ s : State, exec .clear s = exec (.fillAll 0 0 0) s ∧
    (s.phase = .uninitialized →
      exec .clear s = .next { s with status := .wrongPhase, busy := false, rsp := some .wrongPhase }) ∧
    (∀ d, s.phase = .ready → s.driver = some d → exec .clear s = .next
      { s with
        driver := some { d with buf := d.buf.map fun _ => { r := 0, g := 0, b := 0 } }
        status := .ok, busy := false, rsp := some .ok }) ∧
    (s.phase = .released →
      exec .clear s = .next { s with status := .useAfterRelease, busy := false, rsp := some .useAfterRelease })

/-- R130: the value `clamp8` gives, on every integer, and that clamping twice is clamping once. -/
def Obligations.ClampPinsToEightBits : Prop :=
  ∀ v : Int, ((clamp8 v).toNat : Int) = (if v < 0 then 0 else if 255 < v then 255 else v) ∧
    clamp8 (clamp8 v).toNat = clamp8 v

/-- R70: SET_PIXEL, FILL_ALL and CLEAR issued twice in a row leave the same buffer and answer as once. -/
def Obligations.MutationsAreIdempotent : Prop :=
  ∀ (i : Instr) (s t : State), (∃ x r g b, i = .setPixel x r g b) ∨ (∃ r g b, i = .fillAll r g b) ∨ i = .clear →
    exec i s = .next t → exec i t = .next t

/-- R75, R154 to R156, frame: SET_PIXEL, FILL_ALL and CLEAR change nothing but the buffer's cells and the answer. Pin,
`num_pixels` and the buffer's length stay; the phase, the line, the wire, the allocator, the strip and the rest stay. -/
def Obligations.MutationsTouchOnlyTheBuffer : Prop :=
  ∀ (i : Instr) (s t : State), (∃ x r g b, i = .setPixel x r g b) ∨ (∃ r g b, i = .fillAll r g b) ∨ i = .clear →
    exec i s = .next t →
    t = { s with driver := t.driver, status := t.status, busy := t.busy, rsp := t.rsp } ∧
    (s.driver = none → t.driver = none) ∧
    ∀ d, s.driver = some d → ∃ d', t.driver = some d' ∧ d'.pin = d.pin ∧ d'.numPixels = d.numPixels ∧
      d'.buf.length = d.buf.length

/-- R26, R27: once a driver exists no command rewrites its `num_pixels`, its `pin` or its buffer's length. -/
def Obligations.BufferLengthIsImmutable : Prop :=
  ∀ (i : Instr) (s t : State) (d : Driver), s.Shape → s.driver = some d → exec i s = .next t →
    ∃ d', t.driver = some d' ∧ d'.pin = d.pin ∧ d'.numPixels = d.numPixels ∧ d'.buf.length = d.buf.length

/-! ### SHOW -/

/-- R159: SHOW in `Ready` puts the whole buffer on the line once and reports a fault; the buffer and the phase stay.
The line ends low, but for a fault, after which its level is a free value of the model (log 4). -/
def Obligations.ShowTransmitsTheWholeBuffer : Prop :=
  ∀ (s : State) (d : Driver), s.phase = .ready → s.driver = some d → s.ownsLine = true →
    (nextDraw s = none → exec .showStrip s = .next
      { s with
        status := .ok, busy := false, rsp := some .ok, line := .low
        wire := s.wire ++ [{ bits := wireBits s.cfg.channelOrder d.buf, complete := true }]
        shown := latchComplete d.buf s.shown, draws := s.draws.tail, freeIndex := s.freeIndex + 1 }) ∧
    (∀ k, nextDraw s = some k → exec .showStrip s = .next
      { s with
        status := .transmitFault, busy := false, rsp := some .transmitFault
        line := if Config.faultLineHigh s.freeIndex then .high else .low
        wire := s.wire ++ [{ bits := (wireBits s.cfg.channelOrder d.buf).take k, complete := false }]
        shown := latchTruncated s.freeIndex d.buf s.shown, draws := s.draws.tail, freeIndex := s.freeIndex + 1 })

/-- R160 (a), (c), R188: SHOW again sends the same whole transmission again, after a fault too. -/
def Obligations.ShowAgainSendsTheBufferAgain : Prop :=
  ∀ (s t : State) (d : Driver), s.phase = .ready → s.driver = some d → s.ownsLine = true →
    exec .showStrip s = .next t → nextDraw t = none →
    ∃ u x, exec .showStrip t = .next u ∧ u.status = .ok ∧ t.driver = some d ∧
      u.wire = s.wire ++ [x, { bits := wireBits s.cfg.channelOrder d.buf, complete := true }] ∧
      x.bits <+: wireBits s.cfg.channelOrder d.buf

/-- R159, R161, R152, frame: what no command that may commit changes. SHOW leaves the phase, the driver, the handle and
the allocator; NEW and RELEASE leave every other claimant's pin; all leave the inputs and the configuration. -/
def Obligations.CommittingCommandsFrame : Prop :=
  (∀ s t : State, exec .showStrip s = .next t →
    t = { s with line := t.line, wire := t.wire, shown := t.shown, draws := t.draws, freeIndex := t.freeIndex
                 status := t.status, busy := t.busy, rsp := t.rsp }) ∧
  (∀ (p n : Nat) (s t : State), exec (.new p n) s = .next t →
    t.inputs = s.inputs ∧ t.cfg = s.cfg ∧ ∀ q, q ≠ p → (q ∈ t.claimed ↔ q ∈ s.claimed)) ∧
  (∀ s t : State, exec .release s = .next t →
    t.inputs = s.inputs ∧ t.cfg = s.cfg ∧
    (∀ q, (∀ d, s.driver = some d → q ≠ d.pin) → (q ∈ t.claimed ↔ q ∈ s.claimed)) ∧
    ∀ d, s.driver = some d → ∃ d', t.driver = some d' ∧ d'.pin = d.pin ∧ d'.numPixels = d.numPixels)

/-! ### RELEASE -/

/-- R161: RELEASE of a `Ready` driver zeroes the buffer, commits all-off, hands the line back and ends `Released`,
whatever became of the commit; in `Uninitialized` the dispatch rejects it. -/
def Obligations.ReleaseBlackensCommitsAndUnclaims : Prop :=
  (∀ (s : State) (d : Driver), s.Shape → s.phase = .ready → s.driver = some d →
    ∃ t, exec .release s = .next t ∧
      t = { s with
        phase := .released, ownsLine := false, line := .z
        driver := some { d with buf := List.replicate d.numPixels { r := 0, g := 0, b := 0 } }
        claimed := removePin d.pin s.claimed, status := t.status, busy := false, rsp := some t.status
        wire := t.wire, shown := t.shown, draws := s.draws.tail, freeIndex := s.freeIndex + 1 } ∧
      (nextDraw s = none → t.status = .ok ∧
        t.wire = s.wire ++ [{ bits := List.replicate (24 * d.numPixels) false, complete := true }]) ∧
      (∀ k, nextDraw s = some k → t.status = .transmitFault ∧
        t.wire = s.wire ++ [{ bits := List.replicate (min k (24 * d.numPixels)) false, complete := false }])) ∧
  (∀ s : State, s.phase = .uninitialized →
    exec .release s = .next { s with status := .wrongPhase, busy := false, rsp := some .wrongPhase })

/-! ### Errors -/

/-- R219: an error other than `TransmitFault` leaves everything as it was but the answer; `TransmitFault` has left one
incomplete entry in the wire history, and in NEW and RELEASE the pin has gone back; no error leaves the buffer partly
written. -/
def Obligations.ErrorsArePrecise : Prop :=
  (∀ (i : Instr) (s t : State), s.Shape → exec i s = .next t →
    (t.status ≠ .ok → t.status ≠ .transmitFault →
      t = { s with status := t.status, busy := t.busy, rsp := t.rsp }) ∧
    (t.status = .transmitFault → ∃ bits, t.wire = s.wire ++ [{ bits := bits, complete := false }]) ∧
    (t.status = .transmitFault → ∀ p n, i = .new p n → p ∉ t.claimed ∧ t.ownsLine = false) ∧
    (t.status = .transmitFault → i = .release → ∀ d, s.driver = some d → d.pin ∉ t.claimed ∧ t.ownsLine = false) ∧
    (t.status ≠ .ok → t.driver = s.driver ∨ t.driver = none ∨
      ∃ d, s.driver = some d ∧ t.driver = some { d with buf := List.replicate d.buf.length Pixel.black })) ∧
  (∀ (s : State) (w : CmdWord) (rest : List Input) (e : DecodeError), s.busy = false →
    s.inputs = .command w :: rest → decode w = .error e →
    step s = .next { s with inputs := rest, status := .illegalCommand, busy := false, rsp := some .illegalCommand })

/-- R211 to R218: each error has the cause the spec gives it, and arises from no other command. -/
def Obligations.EveryErrorHasItsCause : Prop :=
  ∀ (i : Instr) (s t : State), exec i s = .next t →
    (t.status = .invalidConfiguration → s.phase = .uninitialized ∧ ∃ p, i = .new p 0 ∧
      pinClaimable s.cfg p = true ∧ p ∉ s.claimed) ∧
    (t.status = .peripheralUnavailable → s.phase = .uninitialized ∧ ∃ p n, i = .new p n ∧
      (pinClaimable s.cfg p = false ∨ p ∈ s.claimed)) ∧
    (t.status = .indexOutOfRange → s.phase = .ready ∧ ∃ x r g b d, i = .setPixel x r g b ∧ s.driver = some d ∧
      (x < 0 ∨ (d.numPixels : Int) ≤ x)) ∧
    (t.status = .useAfterRelease → s.phase = .released ∧ i ≠ .release) ∧
    (t.status = .transmitFault → (∃ k, nextDraw s = some k) ∧
      ((s.phase = .uninitialized ∧ ∃ p n, i = .new p n) ∨ (s.phase = .ready ∧ (i = .showStrip ∨ i = .release)))) ∧
    (t.status = .wrongPhase → (s.phase = .uninitialized ∧ ∀ p n, i ≠ .new p n) ∨
      (s.phase = .ready ∧ ∃ p n, i = .new p n)) ∧
    t.status ≠ .illegalCommand

/-! ### The serializer -/

/-- R105, R102, R110: the length of a transmission, and which bit of which channel of which pixel each of its bits
is. -/
def Obligations.WireBitNumberFormula : Prop :=
  ∀ (o : ChannelOrder) (seq : List Pixel),
    (wireBits o seq).length = 24 * seq.length ∧
    ∀ n, n < 24 * seq.length →
      ∃ p c, seq[n / 24]? = some p ∧ (orderChannels o)[(n / 8) % 3]? = some c ∧
        (wireBits o seq)[n]? = some ((chan p c).getLsbD (7 - n % 8))

/-- R31: the serializer cursor, from its start, reads exactly the bits of the transmission and then ceases to exist. -/
def Obligations.CursorWalksTheTransmission : Prop :=
  ∀ (o : ChannelOrder) (seq : List Pixel) (fuel : Nat), seq ≠ [] → 24 * seq.length ≤ fuel →
    cursorWalk o seq fuel (some cursorStart) = wireBits o seq

/-- R66, R102, R103: a transmission carries the whole buffer: two buffers with the same bits are the same buffer. -/
def Obligations.TransmissionDeterminesTheBuffer : Prop :=
  ∀ (o : ChannelOrder) (a b : List Pixel), wireBits o a = wireBits o b → a = b

/-- R180, R186: Transmit without a fault appends the whole transmission, ends with the line low, and leaves the
buffer and every register alone. -/
def Obligations.TransmitRecordsTheWholeBuffer : Prop :=
  ∀ (seq : List Pixel) (s : State), nextDraw s = none →
    transmit seq s = (.ok, { s with
      line := .low, wire := s.wire ++ [{ bits := wireBits s.cfg.channelOrder seq, complete := true }]
      shown := latchComplete seq s.shown, draws := s.draws.tail, freeIndex := s.freeIndex + 1 })

/-- R187: a fault after `k` whole bits records exactly the first `k` bits, as incomplete. -/
def Obligations.FaultRecordsTheBitsSent : Prop :=
  ∀ (seq : List Pixel) (s : State) (k : Nat), nextDraw s = some k → k ≤ 24 * seq.length →
    ∃ x, (transmit seq s).1 = .fault ∧ (transmit seq s).2.wire = s.wire ++ [x] ∧ x.complete = false ∧
      x.bits.length = k ∧ x.bits <+: wireBits s.cfg.channelOrder seq ∧
      (transmit seq s).2.ownsLine = s.ownsLine ∧ (transmit seq s).2.driver = s.driver

/-- R186, R74 (c), R75: the transmission count rises by exactly 1 for a command that invokes Transmit and not at all
for any other, and what the wire has carried stays. -/
def Obligations.WireGrowsByOneEntryPerCommit : Prop :=
  ∀ (i : Instr) (s t : State), exec i s = .next t →
    txCount t = txCount s + (if invokesTransmit i s then 1 else 0) ∧ s.wire <+: t.wire

/-! ### The pulse level -/

/-- R107 to R109, R183, R184: bit `n` is one symbol, high then low, with the durations of its value; nothing stands
between symbols, and the closing gap, of `TRES` or more, follows the last one. A low period before a transmission is of
`TRES` or more too. -/
def Obligations.WaveIsOneSymbolPerBit : Prop :=
  ∀ (t : Timing) (bits : List Bool) (extra : Nat),
    (wave t bits extra).length = 2 * bits.length + 1 ∧
    (∃ g, t.tres ≤ g ∧ (wave t bits extra)[2 * bits.length]? = some { high := false, ticks := g }) ∧
    (∀ x, x ∈ leadWave t true extra → x.high = false ∧ t.tres ≤ x.ticks) ∧
    ∀ n b, bits[n]? = some b →
      (wave t bits extra)[2 * n]? = some { high := true, ticks := if b then t.t1h else t.t0h } ∧
      (wave t bits extra)[2 * n + 1]? = some { high := false, ticks := if b then t.t1l else t.t0l }

/-- R108, R184: with valid pulse parameters no low part inside a transmission reaches the reset threshold. -/
def Obligations.NoLowInsideATransmissionReachesReset : Prop :=
  ∀ (t : Timing) (bits : List Bool) (x : Segment), t.valid = true → x ∈ dataWave t bits → x.high = false →
    0 < x.ticks ∧ x.ticks < t.tres

/-- R31, R107, R108, R183, R184, R226: the serializer run tick by tick, with its cursor and its tick counter, puts on the
line the low period before the transmission, if it has one, the levels of every symbol and the closing gap, each for its
number of ticks, and then it ceases to exist. -/
def Obligations.TickSerializerMakesTheWaveform : Prop :=
  ∀ (t : Timing) (k : Slack) (o : ChannelOrder) (seq : List Pixel) (lead : Bool) (fuel : Nat),
    t.valid = true → seq ≠ [] →
    duration (leadWave t lead k.lead ++ wave t (wireBits o seq) k.gap) ≤ fuel →
    serialWalk t k o seq fuel (some (serialStart lead)) =
      levels (leadWave t lead k.lead ++ wave t (wireBits o seq) k.gap)

/-- R266: the duration of a complete transmission, and its form when the two symbol periods are equal. -/
def Obligations.TransmissionDuration : Prop :=
  ∀ (t : Timing) (o : ChannelOrder) (seq : List Pixel) (extra : Nat),
    duration (wave t (wireBits o seq) extra) = ((wireBits o seq).map (symbolTicks t)).sum + (t.tres + extra) ∧
    (t.t0h + t.t0l = t.t1h + t.t1l →
      duration (wave t (wireBits o seq) extra) = 24 * seq.length * (t.t0h + t.t0l) + (t.tres + extra)) ∧
    ∀ before, duration (leadWave t true before ++ wave t (wireBits o seq) extra) =
      t.tres + before + duration (wave t (wireBits o seq) extra)

/-- R106, R108, R183, R259 on a receiver of the model's (log 7): each transmission is read as the one it is, with a low
period before it or without, and a gap of `TRES` or more inside a transmission makes two of it. -/
def Obligations.GapsSeparateTransmissions : Prop :=
  ∀ (t : Timing) (a b : List Bool) (extraA extraB before gap : Nat), t.valid = true → t.tres ≤ gap → a ≠ [] → b ≠ [] →
    receive t [] 0 (wave t a extraA) = [a] ∧
    receive t [] 0 (leadWave t true before ++ wave t a extraA) = [a] ∧
    receive t [] 0 (wave t a extraA ++ wave t b extraB) = [a, b] ∧
    receive t [] 0 (dataWave t a ++ { high := false, ticks := gap } :: dataWave t b) = [a, b]

/-- R188, R183, R160 (c) on the receiver of log 7: of the line since reset, complete and truncated transmissions in any
order, a receiver reads the bits of each entry by themselves. A transmission after a truncated one never runs on from it,
for the low period comes first. It rests on the model's choice that nothing stands between the whole bits of a truncated
transmission and that low period (log 18), which the spec leaves open (U8). -/
def Obligations.HistoryIsReadEntryByEntry : Prop :=
  ∀ (t : Timing) (entries : List (Transmission × Slack)), t.valid = true →
    receive t [] 0 (historyWave t true entries) = (entries.map fun e => e.1.bits).filter fun bits => !bits.isEmpty

/-! ### The platform and the strip -/

/-- R228, R71, R36: a claim succeeds if and only if the pin is claimable and free, adds that pin alone, and a second
claim of it fails. -/
def Obligations.ClaimIsAtomicAndExclusive : Prop :=
  ∀ (p : Nat) (s : State),
    (pinClaimable s.cfg p = true ∧ p ∉ s.claimed → ∃ t, claim p s = some t ∧
      (∀ q, q ∈ t.claimed ↔ q = p ∨ q ∈ s.claimed) ∧ t.ownsLine = true ∧ claim p t = none) ∧
    (¬ (pinClaimable s.cfg p = true ∧ p ∉ s.claimed) → claim p s = none)

/-- R229: an unclaim frees exactly its pin and the block stops driving the line; after it the pin can be claimed
again. -/
def Obligations.UnclaimFreesThePin : Prop :=
  ∀ (p : Nat) (s : State),
    (∀ q, q ∈ (unclaim p s).claimed ↔ q ∈ s.claimed ∧ q ≠ p) ∧ (unclaim p s).ownsLine = false ∧
    (unclaim p s).line = .z ∧ (pinClaimable s.cfg p = true → ∃ t, claim p (unclaim p s) = some t)

/-- R36, R260: whatever another claimant asks for, the block keeps its pin, its driver, its phase and its line, and
nothing goes on the wire. -/
def Obligations.OtherClaimantsCannotTakeThePin : Prop :=
  ∀ (s t : State) (p q : Nat) (rest : List Input), s.Inv → ownPin s = some p →
    s.inputs = .otherClaim q :: rest ∨ s.inputs = .otherUnclaim q :: rest → step s = .next t →
    p ∈ t.claimed ∧ t = { s with inputs := rest, claimed := t.claimed, rsp := none } ∧
    ∀ x, x ≠ q → (x ∈ t.claimed ↔ x ∈ s.claimed)

/-- R38, general knowledge in the spec: after a complete transmission each LED the data reached shows its pixel and the
others keep their colour; after a truncated one each LED is as before or as sent. -/
def Obligations.StripShowsWhatWasSent : Prop :=
  (∀ (seq : List Pixel) (s : State) (j : Nat), nextDraw s = none → j < s.shown.length →
    (transmit seq s).2.shown[j]? = if j < seq.length then seq[j]? else s.shown[j]?) ∧
  (∀ (seq : List Pixel) (s : State) (j k : Nat), nextDraw s = some k → j < s.shown.length →
    (transmit seq s).2.shown[j]? = s.shown[j]? ∨ (j < seq.length ∧ (transmit seq s).2.shown[j]? = seq[j]?))

/-! ### Reset -/

/-- R40: the values the spec gives for the state after reset. -/
def Obligations.ResetValues : Prop :=
  State.reset.phase = .uninitialized ∧ phaseCode State.reset.phase = 0#2 ∧ State.reset.driver = none ∧
  State.reset.ownsLine = false ∧ State.reset.status = .ok ∧ statusCode State.reset.status = 0#4 ∧
  State.reset.busy = false ∧ State.reset.line = .z ∧ State.reset.wire = [] ∧ txCount State.reset = 0 ∧
  ownPin State.reset = none

/-- R250, R251: the reset input between commands, and a power cycle, put the block at its reset values from any state,
busy or not; a pin the block held goes back; nothing goes on the line. The strip keeps its colours at a reset, and powers
up with free ones at a power cycle (log 5). That every other claimant keeps its pin, through a power cycle too, is the
model's choice (log 10): the spec leaves `claimed` unspecified there (R40). -/
def Obligations.ResetInputRestoresResetValues : Prop :=
  ∀ (s : State) (rest : List Input), s.inputs = .reset :: rest ∨ s.inputs = .powerCycle :: rest →
    ∃ t, step s = .next t ∧
      t = { s with
        phase := State.reset.phase, driver := State.reset.driver, ownsLine := State.reset.ownsLine
        status := State.reset.status, busy := State.reset.busy, line := State.reset.line, rsp := none, wire := []
        inputs := rest, claimed := t.claimed, shown := t.shown, freeIndex := t.freeIndex } ∧
      (∀ q, q ∈ t.claimed ↔ q ∈ s.claimed ∧ ownPin s ≠ some q) ∧
      (s.inputs = .reset :: rest → t.shown = s.shown ∧ t.freeIndex = s.freeIndex) ∧
      t.shown.length = s.shown.length

/-- R252: a reset that ends a command leaves the state of a reset between commands, with no response; a transmission
it cuts short shows on the strip only, each LED as before or as sent (the latch model of log 5). -/
def Obligations.ResetEndsACommandWithoutResponse : Prop :=
  ∀ (s : State) (w : CmdWord) (rest : List Input), s.inputs = .resetDuring w :: rest →
    ∃ t u, step { s with inputs := .reset :: rest } = .next t ∧ step s = .next u ∧ u.rsp = none ∧
      u = { t with shown := u.shown, draws := u.draws, freeIndex := u.freeIndex } ∧
      u.shown.length = s.shown.length ∧
      ∀ j : Nat, u.shown[j]? = s.shown[j]? ∨
        ∃ i seq, decode w = .ok i ∧ sending i s = some seq ∧ j < seq.length ∧ u.shown[j]? = seq[j]?

/-! ### The whole machine -/

/-- R20, R21, R25, R28, R32, R41, R110, R136, R153: every step keeps the machine's invariant. -/
def Obligations.StepKeepsTheInvariant : Prop :=
  ∀ s t : State, s.Inv → step s = .next t → t.Inv

/-- R40: the invariant holds after reset. -/
def Obligations.ResetMeetsTheInvariant : Prop := State.reset.Inv

/-- R111, R220: from a state with the invariant a step answers a next state, unless it is a NEW beyond `MAX_PIXELS`,
which is refused by name. No other stop exists. -/
def Obligations.StepAnswersFromTheInvariant : Prop :=
  ∀ s : State, s.Inv → (∃ t, step s = .next t) ∨
    (step s = .refused .tooManyPixels ∧ ∃ w rest p n, s.inputs = .command w :: rest ∧
      decode w = .ok (.new p n) ∧ s.cfg.maxPixels.toNat < n)

/-- R74, R90, R190, R220: no error stops the block. Of commands among which no NEW exceeds `MAX_PIXELS` (R131, refused by
the model, log 11), each is taken in its turn and answered, and the run comes to its end. -/
def Obligations.EveryProgramRunsToItsEnd : Prop :=
  ∀ s : State, s.Inv → onlyCommands s.cfg s.inputs →
    (∃ t, core.run s.inputs.length s = .next t ∧ t.inputs = [] ∧ t.Inv) ∧
    ∀ k, k < s.inputs.length →
      ∃ u, core.run (k + 1) s = .next u ∧ u.inputs = s.inputs.drop (k + 1) ∧ u.rsp = some u.status

/-- R25, R162, R163: `Released` is terminal. However long the run, without a reset the phase stays and neither the
line, the wire nor the strip changes. -/
def Obligations.ReleasedIsTerminal : Prop :=
  ∀ (n : Nat) (s t : State), s.phase = .released → noReset s.inputs → core.run n s = .next t →
    t.phase = .released ∧ t.driver = s.driver ∧ t.ownsLine = s.ownsLine ∧ t.line = s.line ∧ t.wire = s.wire ∧
    t.shown = s.shown

/-- R4: no entry point reads colour data back to the caller. Two states that differ only in the colours in the buffer
answer every command with the same status, and leave the same phase, handle, line, allocator and count of
transmissions. -/
def Obligations.AnswersDoNotDependOnColours : Prop :=
  ∀ (i : Instr) (s t : State) (d : Driver) (other : List Pixel), s.driver = some d →
    other.length = d.buf.length → exec i s = .next t →
    ∃ u, exec i { s with driver := some { d with buf := other } } = .next u ∧ u.status = t.status ∧
      u.rsp = t.rsp ∧ u.phase = t.phase ∧ u.ownsLine = t.ownsLine ∧ u.line = t.line ∧ u.claimed = t.claimed ∧
      u.busy = t.busy ∧ u.wire.map Transmission.complete = t.wire.map Transmission.complete ∧
      u.wire.map (fun x => x.bits.length) = t.wire.map (fun x => x.bits.length)

/-- R7, R34, R65: the configuration, the channel order among it, is constant: no step changes it. -/
def Obligations.ConfigurationIsConstant : Prop :=
  ∀ s t : State, step s = .next t → t.cfg = s.cfg
end

