-- ==== Sys2Proof/Laws/Decode.lean ====
section
/-! SUPPORT. The small lemmas of the command word: a field of a packed word is the field packed, a word is its fields
packed (R91), and the mask of the opcode table keeps the opcode byte (R96). -/

namespace Sys2Proof

@[simp] theorem opcodeField_packWord (op : Byte) (a b c d : Field) : opcodeField (packWord op a b c d) = op := by
  unfold opcodeField packWord
  ext i hi
  simp [BitVec.getElem_extractLsb']
  grind

@[simp] theorem fieldA_packWord (op : Byte) (a b c d : Field) : fieldA (packWord op a b c d) = a := by
  unfold fieldA packWord
  ext i hi
  simp [BitVec.getElem_extractLsb']
  grind

@[simp] theorem fieldB_packWord (op : Byte) (a b c d : Field) : fieldB (packWord op a b c d) = b := by
  unfold fieldB packWord
  ext i hi
  simp [BitVec.getElem_extractLsb']
  grind

@[simp] theorem fieldC_packWord (op : Byte) (a b c d : Field) : fieldC (packWord op a b c d) = c := by
  unfold fieldC packWord
  ext i hi
  simp [BitVec.getElem_extractLsb']
  grind

@[simp] theorem fieldD_packWord (op : Byte) (a b c d : Field) : fieldD (packWord op a b c d) = d := by
  unfold fieldD packWord
  ext i hi
  simp [BitVec.getElem_extractLsb']
  grind

theorem packWord_fields (w : CmdWord) :
    packWord (opcodeField w) (fieldA w) (fieldB w) (fieldC w) (fieldD w) = w := by
  unfold opcodeField fieldA fieldB fieldC fieldD packWord
  ext i hi
  simp
  grind

theorem opcodeMask_bit : ∀ i : Fin 72, opcodeMask.getLsbD i = decide (64 ≤ i.val) := by decide

theorem packWord_mask (op : Byte) (a b c d : Field) :
    packWord op a b c d &&& opcodeMask = packWord op 0 0 0 0 := by
  refine BitVec.eq_of_getLsbD_eq fun i hi => ?_
  rw [BitVec.getLsbD_and, opcodeMask_bit ⟨i, hi⟩]
  unfold packWord
  simp only [BitVec.getLsbD_append]
  grind

end Sys2Proof
end

