-- ==== Sys2Proof/Laws/State.lean ====
section
/-! SUPPORT. What each update of the state does to each field, one lemma per field per update: no later proof
unfolds a record update. -/

namespace Sys2Proof.Machine

@[simp] theorem respond_phase (st : Status) (s : State) : (respond st s).phase = s.phase := rfl
@[simp] theorem respond_driver (st : Status) (s : State) : (respond st s).driver = s.driver := rfl
@[simp] theorem respond_ownsLine (st : Status) (s : State) : (respond st s).ownsLine = s.ownsLine := rfl
@[simp] theorem respond_status (st : Status) (s : State) : (respond st s).status = st := rfl
@[simp] theorem respond_busy (st : Status) (s : State) : (respond st s).busy = false := rfl
@[simp] theorem respond_line (st : Status) (s : State) : (respond st s).line = s.line := rfl
@[simp] theorem respond_rsp (st : Status) (s : State) : (respond st s).rsp = some st := rfl
@[simp] theorem respond_inputs (st : Status) (s : State) : (respond st s).inputs = s.inputs := rfl
@[simp] theorem respond_claimed (st : Status) (s : State) : (respond st s).claimed = s.claimed := rfl
@[simp] theorem respond_wire (st : Status) (s : State) : (respond st s).wire = s.wire := rfl
@[simp] theorem respond_draws (st : Status) (s : State) : (respond st s).draws = s.draws := rfl
@[simp] theorem respond_shown (st : Status) (s : State) : (respond st s).shown = s.shown := rfl
@[simp] theorem respond_cfg (st : Status) (s : State) : (respond st s).cfg = s.cfg := rfl
@[simp] theorem respond_freeIndex (st : Status) (s : State) : (respond st s).freeIndex = s.freeIndex := rfl

@[simp] theorem idle_phase (s : State) : (idle s).phase = s.phase := rfl
@[simp] theorem idle_driver (s : State) : (idle s).driver = s.driver := rfl
@[simp] theorem idle_ownsLine (s : State) : (idle s).ownsLine = s.ownsLine := rfl
@[simp] theorem idle_status (s : State) : (idle s).status = s.status := rfl
@[simp] theorem idle_busy (s : State) : (idle s).busy = s.busy := rfl
@[simp] theorem idle_line (s : State) : (idle s).line = s.line := rfl
@[simp] theorem idle_rsp (s : State) : (idle s).rsp = none := rfl
@[simp] theorem idle_inputs (s : State) : (idle s).inputs = s.inputs := rfl
@[simp] theorem idle_claimed (s : State) : (idle s).claimed = s.claimed := rfl
@[simp] theorem idle_wire (s : State) : (idle s).wire = s.wire := rfl
@[simp] theorem idle_draws (s : State) : (idle s).draws = s.draws := rfl
@[simp] theorem idle_shown (s : State) : (idle s).shown = s.shown := rfl
@[simp] theorem idle_cfg (s : State) : (idle s).cfg = s.cfg := rfl
@[simp] theorem idle_freeIndex (s : State) : (idle s).freeIndex = s.freeIndex := rfl

@[simp] theorem accept_phase (rest : List Input) (s : State) : (accept rest s).phase = s.phase := rfl
@[simp] theorem accept_driver (rest : List Input) (s : State) : (accept rest s).driver = s.driver := rfl
@[simp] theorem accept_ownsLine (rest : List Input) (s : State) : (accept rest s).ownsLine = s.ownsLine := rfl
@[simp] theorem accept_status (rest : List Input) (s : State) : (accept rest s).status = s.status := rfl
@[simp] theorem accept_busy (rest : List Input) (s : State) : (accept rest s).busy = true := rfl
@[simp] theorem accept_line (rest : List Input) (s : State) : (accept rest s).line = s.line := rfl
@[simp] theorem accept_rsp (rest : List Input) (s : State) : (accept rest s).rsp = none := rfl
@[simp] theorem accept_inputs (rest : List Input) (s : State) : (accept rest s).inputs = rest := rfl
@[simp] theorem accept_claimed (rest : List Input) (s : State) : (accept rest s).claimed = s.claimed := rfl
@[simp] theorem accept_wire (rest : List Input) (s : State) : (accept rest s).wire = s.wire := rfl
@[simp] theorem accept_draws (rest : List Input) (s : State) : (accept rest s).draws = s.draws := rfl
@[simp] theorem accept_shown (rest : List Input) (s : State) : (accept rest s).shown = s.shown := rfl
@[simp] theorem accept_cfg (rest : List Input) (s : State) : (accept rest s).cfg = s.cfg := rfl
@[simp] theorem accept_freeIndex (rest : List Input) (s : State) : (accept rest s).freeIndex = s.freeIndex := rfl

@[simp] theorem lineWrite_phase (high : Bool) (s : State) : (lineWrite high s).phase = s.phase := rfl
@[simp] theorem lineWrite_driver (high : Bool) (s : State) : (lineWrite high s).driver = s.driver := rfl
@[simp] theorem lineWrite_ownsLine (high : Bool) (s : State) : (lineWrite high s).ownsLine = s.ownsLine := rfl
@[simp] theorem lineWrite_status (high : Bool) (s : State) : (lineWrite high s).status = s.status := rfl
@[simp] theorem lineWrite_busy (high : Bool) (s : State) : (lineWrite high s).busy = s.busy := rfl
@[simp] theorem lineWrite_line (high : Bool) (s : State) : (lineWrite high s).line = levelOf high := rfl
@[simp] theorem lineWrite_rsp (high : Bool) (s : State) : (lineWrite high s).rsp = s.rsp := rfl
@[simp] theorem lineWrite_inputs (high : Bool) (s : State) : (lineWrite high s).inputs = s.inputs := rfl
@[simp] theorem lineWrite_claimed (high : Bool) (s : State) : (lineWrite high s).claimed = s.claimed := rfl
@[simp] theorem lineWrite_wire (high : Bool) (s : State) : (lineWrite high s).wire = s.wire := rfl
@[simp] theorem lineWrite_draws (high : Bool) (s : State) : (lineWrite high s).draws = s.draws := rfl
@[simp] theorem lineWrite_shown (high : Bool) (s : State) : (lineWrite high s).shown = s.shown := rfl
@[simp] theorem lineWrite_cfg (high : Bool) (s : State) : (lineWrite high s).cfg = s.cfg := rfl
@[simp] theorem lineWrite_freeIndex (high : Bool) (s : State) : (lineWrite high s).freeIndex = s.freeIndex := rfl

@[simp] theorem lineInit_phase (s : State) : (lineInit s).phase = s.phase := rfl
@[simp] theorem lineInit_driver (s : State) : (lineInit s).driver = s.driver := rfl
@[simp] theorem lineInit_ownsLine (s : State) : (lineInit s).ownsLine = s.ownsLine := rfl
@[simp] theorem lineInit_status (s : State) : (lineInit s).status = s.status := rfl
@[simp] theorem lineInit_busy (s : State) : (lineInit s).busy = s.busy := rfl
@[simp] theorem lineInit_line (s : State) : (lineInit s).line = .low := rfl
@[simp] theorem lineInit_rsp (s : State) : (lineInit s).rsp = s.rsp := rfl
@[simp] theorem lineInit_inputs (s : State) : (lineInit s).inputs = s.inputs := rfl
@[simp] theorem lineInit_claimed (s : State) : (lineInit s).claimed = s.claimed := rfl
@[simp] theorem lineInit_wire (s : State) : (lineInit s).wire = s.wire := rfl
@[simp] theorem lineInit_draws (s : State) : (lineInit s).draws = s.draws := rfl
@[simp] theorem lineInit_shown (s : State) : (lineInit s).shown = s.shown := rfl
@[simp] theorem lineInit_cfg (s : State) : (lineInit s).cfg = s.cfg := rfl
@[simp] theorem lineInit_freeIndex (s : State) : (lineInit s).freeIndex = s.freeIndex := rfl

@[simp] theorem unclaim_phase (pin : Nat) (s : State) : (unclaim pin s).phase = s.phase := rfl
@[simp] theorem unclaim_driver (pin : Nat) (s : State) : (unclaim pin s).driver = s.driver := rfl
@[simp] theorem unclaim_ownsLine (pin : Nat) (s : State) : (unclaim pin s).ownsLine = false := rfl
@[simp] theorem unclaim_status (pin : Nat) (s : State) : (unclaim pin s).status = s.status := rfl
@[simp] theorem unclaim_busy (pin : Nat) (s : State) : (unclaim pin s).busy = s.busy := rfl
@[simp] theorem unclaim_line (pin : Nat) (s : State) : (unclaim pin s).line = .z := rfl
@[simp] theorem unclaim_rsp (pin : Nat) (s : State) : (unclaim pin s).rsp = s.rsp := rfl
@[simp] theorem unclaim_inputs (pin : Nat) (s : State) : (unclaim pin s).inputs = s.inputs := rfl
@[simp] theorem unclaim_claimed (pin : Nat) (s : State) : (unclaim pin s).claimed = removePin pin s.claimed := rfl
@[simp] theorem unclaim_wire (pin : Nat) (s : State) : (unclaim pin s).wire = s.wire := rfl
@[simp] theorem unclaim_draws (pin : Nat) (s : State) : (unclaim pin s).draws = s.draws := rfl
@[simp] theorem unclaim_shown (pin : Nat) (s : State) : (unclaim pin s).shown = s.shown := rfl
@[simp] theorem unclaim_cfg (pin : Nat) (s : State) : (unclaim pin s).cfg = s.cfg := rfl
@[simp] theorem unclaim_freeIndex (pin : Nat) (s : State) : (unclaim pin s).freeIndex = s.freeIndex := rfl

@[simp] theorem takeDraw_phase (s : State) : (takeDraw s).phase = s.phase := rfl
@[simp] theorem takeDraw_driver (s : State) : (takeDraw s).driver = s.driver := rfl
@[simp] theorem takeDraw_ownsLine (s : State) : (takeDraw s).ownsLine = s.ownsLine := rfl
@[simp] theorem takeDraw_status (s : State) : (takeDraw s).status = s.status := rfl
@[simp] theorem takeDraw_busy (s : State) : (takeDraw s).busy = s.busy := rfl
@[simp] theorem takeDraw_line (s : State) : (takeDraw s).line = s.line := rfl
@[simp] theorem takeDraw_rsp (s : State) : (takeDraw s).rsp = s.rsp := rfl
@[simp] theorem takeDraw_inputs (s : State) : (takeDraw s).inputs = s.inputs := rfl
@[simp] theorem takeDraw_claimed (s : State) : (takeDraw s).claimed = s.claimed := rfl
@[simp] theorem takeDraw_wire (s : State) : (takeDraw s).wire = s.wire := rfl
@[simp] theorem takeDraw_draws (s : State) : (takeDraw s).draws = s.draws.tail := rfl
@[simp] theorem takeDraw_shown (s : State) : (takeDraw s).shown = s.shown := rfl
@[simp] theorem takeDraw_cfg (s : State) : (takeDraw s).cfg = s.cfg := rfl
@[simp] theorem takeDraw_freeIndex (s : State) : (takeDraw s).freeIndex = s.freeIndex + 1 := rfl

@[simp] theorem setBuffer_phase (d : Driver) (buf : List Pixel) (s : State) : (setBuffer d buf s).phase = s.phase := rfl
@[simp] theorem setBuffer_driver (d : Driver) (buf : List Pixel) (s : State) : (setBuffer d buf s).driver = some { d with buf := buf } := rfl
@[simp] theorem setBuffer_ownsLine (d : Driver) (buf : List Pixel) (s : State) : (setBuffer d buf s).ownsLine = s.ownsLine := rfl
@[simp] theorem setBuffer_status (d : Driver) (buf : List Pixel) (s : State) : (setBuffer d buf s).status = s.status := rfl
@[simp] theorem setBuffer_busy (d : Driver) (buf : List Pixel) (s : State) : (setBuffer d buf s).busy = s.busy := rfl
@[simp] theorem setBuffer_line (d : Driver) (buf : List Pixel) (s : State) : (setBuffer d buf s).line = s.line := rfl
@[simp] theorem setBuffer_rsp (d : Driver) (buf : List Pixel) (s : State) : (setBuffer d buf s).rsp = s.rsp := rfl
@[simp] theorem setBuffer_inputs (d : Driver) (buf : List Pixel) (s : State) : (setBuffer d buf s).inputs = s.inputs := rfl
@[simp] theorem setBuffer_claimed (d : Driver) (buf : List Pixel) (s : State) : (setBuffer d buf s).claimed = s.claimed := rfl
@[simp] theorem setBuffer_wire (d : Driver) (buf : List Pixel) (s : State) : (setBuffer d buf s).wire = s.wire := rfl
@[simp] theorem setBuffer_draws (d : Driver) (buf : List Pixel) (s : State) : (setBuffer d buf s).draws = s.draws := rfl
@[simp] theorem setBuffer_shown (d : Driver) (buf : List Pixel) (s : State) : (setBuffer d buf s).shown = s.shown := rfl
@[simp] theorem setBuffer_cfg (d : Driver) (buf : List Pixel) (s : State) : (setBuffer d buf s).cfg = s.cfg := rfl
@[simp] theorem setBuffer_freeIndex (d : Driver) (buf : List Pixel) (s : State) : (setBuffer d buf s).freeIndex = s.freeIndex := rfl

@[simp] theorem resetBlock_phase (s : State) : (resetBlock s).phase = .uninitialized := rfl
@[simp] theorem resetBlock_driver (s : State) : (resetBlock s).driver = none := rfl
@[simp] theorem resetBlock_ownsLine (s : State) : (resetBlock s).ownsLine = false := rfl
@[simp] theorem resetBlock_status (s : State) : (resetBlock s).status = .ok := rfl
@[simp] theorem resetBlock_busy (s : State) : (resetBlock s).busy = false := rfl
@[simp] theorem resetBlock_line (s : State) : (resetBlock s).line = .z := rfl
@[simp] theorem resetBlock_rsp (s : State) : (resetBlock s).rsp = none := rfl
@[simp] theorem resetBlock_inputs (s : State) : (resetBlock s).inputs = s.inputs := rfl
@[simp] theorem resetBlock_claimed (s : State) : (resetBlock s).claimed = withoutOwnClaim s := rfl
@[simp] theorem resetBlock_wire (s : State) : (resetBlock s).wire = [] := rfl
@[simp] theorem resetBlock_draws (s : State) : (resetBlock s).draws = s.draws := rfl
@[simp] theorem resetBlock_shown (s : State) : (resetBlock s).shown = s.shown := rfl
@[simp] theorem resetBlock_cfg (s : State) : (resetBlock s).cfg = s.cfg := rfl
@[simp] theorem resetBlock_freeIndex (s : State) : (resetBlock s).freeIndex = s.freeIndex := rfl

end Sys2Proof.Machine
end

