-- ==== Sys2Proof/Laws/Ops.lean ====
section
/-! SUPPORT. What each shared operation can do, said once, and that every operation on the allocator's set keeps
its canonical form. -/

namespace Sys2Proof.Machine

/-! ### Operands -/

theorem clamp8_below (v : Int) (h : v < 0) : clamp8 v = 0#8 := by simp [clamp8, h]

theorem clamp8_above (v : Int) (h : 255 < v) : clamp8 v = 255#8 := by
  have h0 : ¬ v < 0 := by omega
  simp [clamp8, h, h0]

theorem clamp8_inside (v : Int) (h0 : 0 ≤ v) (h1 : v ≤ 255) : clamp8 v = BitVec.ofNat 8 v.toNat := by
  have a : ¬ v < 0 := by omega
  have b : ¬ 255 < v := by omega
  simp [clamp8, a, b]

@[simp] theorem indexValid_iff (i : Int) (n : Nat) : indexValid i n = true ↔ 0 ≤ i ∧ i < n := by
  simp [indexValid]

/-! ### The dispatch -/

/-- Everything the dispatch of a `Ready` command can do (R150). -/
theorem inReady_next {s t : State} {body : Driver → Result} (h : inReady s body = .next t) :
    (s.phase = .uninitialized ∧ t = respond .wrongPhase s) ∨
    (s.phase = .released ∧ t = respond .useAfterRelease s) ∨
    (s.phase = .ready ∧ ∃ d, s.driver = some d ∧ body d = .next t) := by
  unfold inReady at h
  split at h
  · left; exact ⟨‹_›, by cases h; rfl⟩
  · right; left; exact ⟨‹_›, by cases h; rfl⟩
  · right; right
    split at h
    · exact ⟨‹_›, _, ‹_›, h⟩
    · cases h

@[simp] theorem inReady_ready {s : State} {d : Driver} (body : Driver → Result)
    (hp : s.phase = .ready) (hd : s.driver = some d) : inReady s body = body d := by
  simp [inReady, hp, hd]

@[simp] theorem inReady_uninitialized {s : State} (body : Driver → Result) (hp : s.phase = .uninitialized) :
    inReady s body = .next (respond .wrongPhase s) := by
  simp [inReady, hp]

@[simp] theorem inReady_released {s : State} (body : Driver → Result) (hp : s.phase = .released) :
    inReady s body = .next (respond .useAfterRelease s) := by
  simp [inReady, hp]

theorem withLine_next {s t : State} {body : Result} (h : withLine s body = .next t) :
    s.ownsLine = true ∧ body = .next t := by
  unfold withLine at h
  split at h
  · exact ⟨‹_›, h⟩
  · cases h

@[simp] theorem withLine_owned {s : State} (body : Result) (h : s.ownsLine = true) : withLine s body = body := by
  simp [withLine, h]

/-! ### The allocator -/

@[simp] theorem mem_insertPin (p q : Nat) (l : List Nat) : q ∈ insertPin p l ↔ q = p ∨ q ∈ l := by
  induction l with
  | nil => simp [insertPin]
  | cons a rest ih =>
    unfold insertPin
    split
    · simp
    · split
      · subst_vars; simp
      · simp [ih]; tauto

@[simp] theorem mem_removePin (p q : Nat) (l : List Nat) : q ∈ removePin p l ↔ q ∈ l ∧ q ≠ p := by
  simp [removePin]

/-- A claim made and handed back inside one command cancels (R219). -/
theorem removePin_insertPin (p : Nat) (l : List Nat) (h : p ∉ l) : removePin p (insertPin p l) = l := by
  induction l with
  | nil => simp [insertPin, removePin]
  | cons a rest ih =>
    have ha : p ≠ a := fun e => h (by simp [e])
    have hr : p ∉ rest := fun e => h (by simp [e])
    have keep : removePin p (a :: rest) = a :: rest := by
      have : removePin p rest = rest := List.filter_eq_self.2 (by
        intro x hx
        have : x ≠ p := fun e => hr (e ▸ hx)
        simp [this])
      simp only [removePin] at this ⊢
      simp [ha.symm, this]
    unfold insertPin
    split
    · rw [removePin, List.filter_cons]
      simpa [removePin] using keep
    · have := ih hr
      simp only [removePin] at this ⊢
      simp [ha.symm, this]

/-- `insertPin` keeps the canonical form. -/
theorem insertPin_canonical {p : Nat} {l : List Nat} (hp : p < 65536) (h : ClaimsCanonical l) :
    ClaimsCanonical (insertPin p l) := by
  obtain ⟨hs, hb⟩ := h
  refine ⟨?_, fun q hq => by
    rcases (mem_insertPin p q l).1 hq with rfl | hq
    · exact hp
    · exact hb q hq⟩
  clear hb
  induction l with
  | nil => simp [insertPin]
  | cons a rest ih =>
    have ⟨ha, hrest⟩ := List.pairwise_cons.1 hs
    unfold insertPin
    split
    · refine List.pairwise_cons.2 ⟨fun x hx => ?_, hs⟩
      rcases List.mem_cons.1 hx with rfl | hx
      · assumption
      · have := ha x hx; omega
    · split
      · exact hs
      · refine List.pairwise_cons.2 ⟨fun x hx => ?_, ih hrest⟩
        rcases (mem_insertPin p x rest).1 hx with rfl | hx
        · omega
        · exact ha x hx

/-- `removePin` keeps the canonical form. -/
theorem removePin_canonical {p : Nat} {l : List Nat} (h : ClaimsCanonical l) : ClaimsCanonical (removePin p l) :=
  ⟨h.1.sublist List.filter_sublist, fun q hq => h.2 q ((mem_removePin p q l).1 hq).1⟩

theorem pinClaimable_lt {c : Config} {p : Nat} (h : pinClaimable c p = true) : p < 65536 := by
  simp [pinClaimable] at h; exact h.1

/-- Everything the allocator can answer (R228). -/
theorem allocate_cases (c : Config) (p : Nat) (l : List Nat) :
    (pinClaimable c p = true ∧ p ∉ l ∧ allocate c p l = some (insertPin p l)) ∨
    ((pinClaimable c p = false ∨ p ∈ l) ∧ allocate c p l = none) := by
  unfold allocate
  by_cases h1 : pinClaimable c p = true <;> by_cases h2 : p ∈ l <;> simp [h1, h2]

/-- `allocate` keeps the canonical form, whatever it answers. -/
theorem allocate_canonical {c : Config} {p : Nat} {l : List Nat} (h : ClaimsCanonical l) :
    ClaimsCanonical ((allocate c p l).getD l) := by
  rcases allocate_cases c p l with ⟨hp, _, e⟩ | ⟨_, e⟩ <;> rw [e]
  · exact insertPin_canonical (pinClaimable_lt hp) h
  · exact h

/-- Everything the block's claim can answer (R228, R28). -/
theorem claim_cases (p : Nat) (s : State) :
    (pinClaimable s.cfg p = true ∧ p ∉ s.claimed ∧
      claim p s = some { s with claimed := insertPin p s.claimed, ownsLine := true }) ∨
    ((pinClaimable s.cfg p = false ∨ p ∈ s.claimed) ∧ claim p s = none) := by
  unfold claim
  rcases allocate_cases s.cfg p s.claimed with ⟨hp, hm, e⟩ | ⟨h, e⟩ <;> rw [e]
  · exact .inl ⟨hp, hm, rfl⟩
  · exact .inr ⟨h, rfl⟩

end Sys2Proof.Machine
end

