-- ==== Sys2Proof/Laws/Serializer.lean ====
section
/-! SUPPORT. The small lemmas of the Pixel Buffer and of the serializer, and everything Transmit can do. -/

namespace Sys2Proof.Machine

@[simp] theorem pbFill_length (r g b : Int) (buf : List Pixel) : (pbFill r g b buf).length = buf.length := by
  simp [pbFill]

@[simp] theorem pbClear_eq (buf : List Pixel) : pbClear buf = List.replicate buf.length Pixel.black := by
  have : clampPixel 0 0 0 = Pixel.black := by decide
  simp [pbClear, pbFill, this]

@[simp] theorem pbAsSequence_eq (buf : List Pixel) : pbAsSequence buf = buf := rfl

theorem pbNew_pos {n : Nat} (h : n ≠ 0) : pbNew n = .ok (List.replicate n Pixel.black) := by simp [pbNew, h]

@[simp] theorem channelBits_length (v : Channel) : (channelBits v).length = 8 := rfl

@[simp] theorem pixelFrame_length (o : ChannelOrder) (p : Pixel) : (pixelFrame o p).length = 24 := by
  cases o <;> rfl

@[simp] theorem wireBits_nil (o : ChannelOrder) : wireBits o [] = [] := rfl

@[simp] theorem wireBits_cons (o : ChannelOrder) (p : Pixel) (seq : List Pixel) :
    wireBits o (p :: seq) = pixelFrame o p ++ wireBits o seq := rfl

@[simp] theorem latchComplete_length (seq shown : List Pixel) :
    (latchComplete seq shown).length = shown.length := by simp [latchComplete]

@[simp] theorem latchTruncated_length (draw : Nat) (seq shown : List Pixel) :
    (latchTruncated draw seq shown).length = shown.length := by simp [latchTruncated]

/-- Each LED after a truncated transmission is as before or as sent. -/
theorem latchTruncated_get (draw : Nat) (seq shown : List Pixel) (j : Nat) :
    (latchTruncated draw seq shown)[j]? = shown[j]? ∨
      (j < seq.length ∧ (latchTruncated draw seq shown)[j]? = seq[j]?) := by
  by_cases hj : j < shown.length
  · by_cases hb : Config.faultShowsSent draw j = true
    · by_cases hs : j < seq.length
      · right; simp [latchTruncated, hj, hb, hs]
      · left; simp [latchTruncated, hj, hs]
    · left; simp [latchTruncated, hj, hb]
  · left; simp [latchTruncated, hj]

/-- Everything Transmit can do (R180, R186, R187). -/
theorem transmit_cases (seq : List Pixel) (s : State) :
    (nextDraw s = none ∧ transmit seq s =
      (.ok, { s with
        line := .low, draws := s.draws.tail, freeIndex := s.freeIndex + 1
        wire := s.wire ++ [{ bits := wireBits s.cfg.channelOrder seq, complete := true }]
        shown := latchComplete seq s.shown })) ∨
    (∃ k, nextDraw s = some k ∧ transmit seq s =
      (.fault, { s with
        line := levelOf (Config.faultLineHigh s.freeIndex), draws := s.draws.tail
        freeIndex := s.freeIndex + 1
        wire := s.wire ++ [{ bits := (wireBits s.cfg.channelOrder seq).take k, complete := false }]
        shown := latchTruncated s.freeIndex seq s.shown })) := by
  unfold transmit
  cases h : nextDraw s with
  | none => exact .inl ⟨rfl, rfl⟩
  | some k => exact .inr ⟨k, rfl, rfl⟩

/-- Everything a commit can do: what Transmit can, for the line's level before it leaves no trace. -/
theorem commit_cases (seq : List Pixel) (s : State) :
    (nextDraw s = none ∧ commit seq s =
      (.ok, { s with
        line := .low, draws := s.draws.tail, freeIndex := s.freeIndex + 1
        wire := s.wire ++ [{ bits := wireBits s.cfg.channelOrder seq, complete := true }]
        shown := latchComplete seq s.shown })) ∨
    (∃ k, nextDraw s = some k ∧ commit seq s =
      (.fault, { s with
        line := levelOf (Config.faultLineHigh s.freeIndex), draws := s.draws.tail
        freeIndex := s.freeIndex + 1
        wire := s.wire ++ [{ bits := (wireBits s.cfg.channelOrder seq).take k, complete := false }]
        shown := latchTruncated s.freeIndex seq s.shown })) :=
  transmit_cases seq (lineInit s)

theorem levelOf_ne_z (high : Bool) : levelOf high ≠ .z := by cases high <;> decide

end Sys2Proof.Machine
end

