-- ==== Sys2Proof/Laws/Exec.lean ====
section
/-! SUPPORT. What each command can do when it answers a next state, one inversion lemma per command, and what a step
can do. Later proofs cite these and unfold no meaning. -/

namespace Sys2Proof.Machine

/-- Everything NEW can do (R152). -/
theorem execNew_cases {p n : Nat} {s t : State} (h : execNew p n s = .next t) :
    (s.phase = .ready ∧ t = respond .wrongPhase s) ∨
    (s.phase = .released ∧ t = respond .useAfterRelease s) ∨
    (s.phase = .uninitialized ∧ (pinClaimable s.cfg p = false ∨ p ∈ s.claimed) ∧
      t = respond .peripheralUnavailable s) ∨
    (s.phase = .uninitialized ∧ pinClaimable s.cfg p = true ∧ p ∉ s.claimed ∧ n = 0 ∧
      t = respond .invalidConfiguration { s with ownsLine := false, line := .z }) ∨
    (s.phase = .uninitialized ∧ pinClaimable s.cfg p = true ∧ p ∉ s.claimed ∧ 1 ≤ n ∧
      n ≤ s.cfg.maxPixels.toNat ∧
      t = construct p n (List.replicate n Pixel.black)
        { s with claimed := insertPin p s.claimed, ownsLine := true }) := by
  unfold execNew at h
  split at h
  · left; exact ⟨‹_›, by cases h; rfl⟩
  · right; left; exact ⟨‹_›, by cases h; rfl⟩
  · right; right
    rcases claim_cases p s with ⟨hp, hm, e⟩ | ⟨hno, e⟩ <;> rw [e] at h
    · right
      simp only at h
      split at h
      · cases h
      · rename_i hmax
        by_cases hn : n = 0
        · left
          subst hn
          simp only [pbNew, if_true] at h
          refine ⟨‹_›, hp, hm, rfl, ?_⟩
          cases h
          simp [respond, unclaim, removePin_insertPin p s.claimed hm]
        · right
          rw [pbNew_pos hn] at h
          exact ⟨‹_›, hp, hm, by omega, by omega, by cases h; rfl⟩
    · left
      exact ⟨‹_›, hno, by cases h; rfl⟩

/-- Everything SET_PIXEL can do in `Ready` (R154); elsewhere `inReady_next` says it. -/
theorem execSetPixel_ready {i r g b : Int} {s : State} {d : Driver} (hp : s.phase = .ready) (hd : s.driver = some d) :
    execSetPixel i r g b s = .next (
      if indexValid i d.numPixels = true
      then respond .ok (setBuffer d (d.buf.set i.toNat (clampPixel r g b)) s)
      else respond .indexOutOfRange s) := by
  unfold execSetPixel
  rw [inReady_ready _ hp hd]
  by_cases h : indexValid i d.numPixels = true <;> simp only [pbSet, h] <;> rfl

/-- What FILL_ALL does in `Ready` (R155). -/
theorem execFillAll_ready {r g b : Int} {s : State} {d : Driver} (hp : s.phase = .ready) (hd : s.driver = some d) :
    execFillAll r g b s = .next (respond .ok (setBuffer d (pbFill r g b d.buf) s)) := by
  unfold execFillAll
  rw [inReady_ready _ hp hd]

/-- What CLEAR does in `Ready` (R156). -/
theorem execClear_ready {s : State} {d : Driver} (hp : s.phase = .ready) (hd : s.driver = some d) :
    execClear s = .next (respond .ok (setBuffer d (List.replicate d.buf.length Pixel.black) s)) := by
  unfold execClear
  rw [inReady_ready _ hp hd, pbClear_eq]

/-- What SHOW does in `Ready` (R159). -/
theorem execShowStrip_ready {s : State} {d : Driver} (hp : s.phase = .ready) (hd : s.driver = some d)
    (ho : s.ownsLine = true) : execShowStrip s = .next (showBuffer d s) := by
  unfold execShowStrip
  rw [inReady_ready _ hp hd, withLine_owned _ ho]

/-- What RELEASE does in `Ready` (R161). -/
theorem execRelease_ready {s : State} {d : Driver} (hp : s.phase = .ready) (hd : s.driver = some d)
    (ho : s.ownsLine = true) : execRelease s = .next (tearDown d s) := by
  unfold execRelease
  rw [hp]
  simp only
  rw [inReady_ready _ hp hd, withLine_owned _ ho]

/-- Everything a command of the driver can do (R150, R151): NEW aside, it is rejected by its phase, or RELEASE finds
the driver released, or its body runs on the driver of a `Ready` block. -/
theorem exec_cases {i : Instr} {s t : State} (h : exec i s = .next t) :
    (∃ p n, i = .new p n ∧ execNew p n s = .next t) ∨
    (s.phase = .uninitialized ∧ (∀ p n, i ≠ .new p n) ∧ t = respond .wrongPhase s) ∨
    (s.phase = .released ∧ (∀ p n, i ≠ .new p n) ∧ i ≠ .release ∧ t = respond .useAfterRelease s) ∨
    (s.phase = .released ∧ i = .release ∧ t = respond .ok s) ∨
    (s.phase = .ready ∧ ∃ d, s.driver = some d ∧
      ((∃ x r g b, i = .setPixel x r g b ∧ t =
          if indexValid x d.numPixels = true
          then respond .ok (setBuffer d (d.buf.set x.toNat (clampPixel r g b)) s)
          else respond .indexOutOfRange s) ∨
       (∃ r g b, i = .fillAll r g b ∧ t = respond .ok (setBuffer d (pbFill r g b d.buf) s)) ∨
       (i = .clear ∧ t = respond .ok (setBuffer d (List.replicate d.buf.length Pixel.black) s)) ∨
       (i = .showStrip ∧ s.ownsLine = true ∧ t = showBuffer d s) ∨
       (i = .release ∧ s.ownsLine = true ∧ t = tearDown d s))) := by
  cases i with
  | new p n => exact .inl ⟨p, n, rfl, h⟩
  | setPixel x r g b =>
    right
    change execSetPixel x r g b s = .next t at h
    rcases inReady_next h with ⟨hp, e⟩ | ⟨hp, e⟩ | ⟨hp, d, hd, -⟩
    · exact .inl ⟨hp, by simp, e⟩
    · exact .inr (.inl ⟨hp, by simp, by simp, e⟩)
    · rw [execSetPixel_ready hp hd] at h
      exact .inr (.inr (.inr ⟨hp, d, hd, .inl ⟨x, r, g, b, rfl, by cases h; rfl⟩⟩))
  | fillAll r g b =>
    right
    change execFillAll r g b s = .next t at h
    rcases inReady_next h with ⟨hp, e⟩ | ⟨hp, e⟩ | ⟨hp, d, hd, -⟩
    · exact .inl ⟨hp, by simp, e⟩
    · exact .inr (.inl ⟨hp, by simp, by simp, e⟩)
    · rw [execFillAll_ready hp hd] at h
      exact .inr (.inr (.inr ⟨hp, d, hd, .inr (.inl ⟨r, g, b, rfl, by cases h; rfl⟩)⟩))
  | clear =>
    right
    change execClear s = .next t at h
    rcases inReady_next h with ⟨hp, e⟩ | ⟨hp, e⟩ | ⟨hp, d, hd, -⟩
    · exact .inl ⟨hp, by simp, e⟩
    · exact .inr (.inl ⟨hp, by simp, by simp, e⟩)
    · rw [execClear_ready hp hd] at h
      exact .inr (.inr (.inr ⟨hp, d, hd, .inr (.inr (.inl ⟨rfl, by cases h; rfl⟩))⟩))
  | showStrip =>
    right
    change execShowStrip s = .next t at h
    rcases inReady_next h with ⟨hp, e⟩ | ⟨hp, e⟩ | ⟨hp, d, hd, hb⟩
    · exact .inl ⟨hp, by simp, e⟩
    · exact .inr (.inl ⟨hp, by simp, by simp, e⟩)
    · obtain ⟨ho, e⟩ := withLine_next hb
      exact .inr (.inr (.inr ⟨hp, d, hd, .inr (.inr (.inr (.inl ⟨rfl, ho, by cases e; rfl⟩)))⟩))
  | release =>
    right
    change execRelease s = .next t at h
    unfold execRelease at h
    split at h
    · exact .inr (.inr (.inl ⟨‹_›, rfl, by cases h; rfl⟩))
    · rcases inReady_next h with ⟨hp, e⟩ | ⟨hp, e⟩ | ⟨hp, d, hd, hb⟩
      · exact .inl ⟨hp, by simp, e⟩
      · exact absurd hp ‹_›
      · obtain ⟨ho, e⟩ := withLine_next hb
        exact .inr (.inr (.inr ⟨hp, d, hd, .inr (.inr (.inr (.inr ⟨rfl, ho, by cases e; rfl⟩)))⟩))

/-- What NEW's construction comes to (R152). -/
theorem construct_cases (p n : Nat) (buf : List Pixel) (s : State) :
    (nextDraw s = none ∧ construct p n buf s =
      { s with
        phase := .ready, driver := some { pin := p, numPixels := n, buf := buf }, status := .ok
        busy := false, rsp := some .ok, line := .low, draws := s.draws.tail
        freeIndex := s.freeIndex + 1, shown := latchComplete buf s.shown
        wire := s.wire ++ [{ bits := wireBits s.cfg.channelOrder buf, complete := true }] }) ∨
    (∃ k, nextDraw s = some k ∧ construct p n buf s =
      { s with
        driver := none, status := .transmitFault, busy := false, rsp := some .transmitFault
        claimed := removePin p s.claimed, ownsLine := false, line := .z, draws := s.draws.tail
        freeIndex := s.freeIndex + 1, shown := latchTruncated s.freeIndex buf s.shown
        wire := s.wire ++ [{ bits := (wireBits s.cfg.channelOrder buf).take k, complete := false }] }) := by
  rcases commit_cases buf { s with driver := some { pin := p, numPixels := n, buf := buf } } with ⟨hd, e⟩ | ⟨k, hd, e⟩
  · exact .inl ⟨hd, by simp only [construct, pbAsSequence_eq, e]; rfl⟩
  · exact .inr ⟨k, hd, by simp only [construct, pbAsSequence_eq, e]; rfl⟩

/-- What SHOW's body comes to (R159). -/
theorem showBuffer_cases (d : Driver) (s : State) :
    (nextDraw s = none ∧ showBuffer d s =
      { s with
        status := .ok, busy := false, rsp := some .ok, line := .low, draws := s.draws.tail
        freeIndex := s.freeIndex + 1, shown := latchComplete d.buf s.shown
        wire := s.wire ++ [{ bits := wireBits s.cfg.channelOrder d.buf, complete := true }] }) ∨
    (∃ k, nextDraw s = some k ∧ showBuffer d s =
      { s with
        status := .transmitFault, busy := false, rsp := some .transmitFault
        line := levelOf (Config.faultLineHigh s.freeIndex), draws := s.draws.tail
        freeIndex := s.freeIndex + 1, shown := latchTruncated s.freeIndex d.buf s.shown
        wire := s.wire ++ [{ bits := (wireBits s.cfg.channelOrder d.buf).take k, complete := false }] }) := by
  rcases commit_cases d.buf s with ⟨hd, e⟩ | ⟨k, hd, e⟩
  · exact .inl ⟨hd, by simp only [showBuffer, pbAsSequence_eq, e]; rfl⟩
  · exact .inr ⟨k, hd, by simp only [showBuffer, pbAsSequence_eq, e]; rfl⟩

/-- What RELEASE's body comes to (R161). -/
theorem tearDown_cases (d : Driver) (s : State) :
    (nextDraw s = none ∧ tearDown d s =
      { s with
        phase := .released, driver := some { d with buf := List.replicate d.buf.length Pixel.black }
        status := .ok, busy := false, rsp := some .ok, claimed := removePin d.pin s.claimed
        ownsLine := false, line := .z, draws := s.draws.tail, freeIndex := s.freeIndex + 1
        shown := latchComplete (List.replicate d.buf.length Pixel.black) s.shown
        wire := s.wire ++ [{ bits := wireBits s.cfg.channelOrder (List.replicate d.buf.length Pixel.black)
                             complete := true }] }) ∨
    (∃ k, nextDraw s = some k ∧ tearDown d s =
      { s with
        phase := .released, driver := some { d with buf := List.replicate d.buf.length Pixel.black }
        status := .transmitFault, busy := false, rsp := some .transmitFault
        claimed := removePin d.pin s.claimed, ownsLine := false, line := .z, draws := s.draws.tail
        freeIndex := s.freeIndex + 1
        shown := latchTruncated s.freeIndex (List.replicate d.buf.length Pixel.black) s.shown
        wire := s.wire ++ [{ bits := (wireBits s.cfg.channelOrder
                               (List.replicate d.buf.length Pixel.black)).take k
                             complete := false }] }) := by
  rcases commit_cases (List.replicate d.buf.length Pixel.black)
    { s with driver := some { d with buf := List.replicate d.buf.length Pixel.black } } with
    ⟨hd, e⟩ | ⟨k, hd, e⟩
  · exact .inl ⟨hd, by simp only [tearDown, pbClear_eq, pbAsSequence_eq, e]; rfl⟩
  · exact .inr ⟨k, hd, by simp only [tearDown, pbClear_eq, pbAsSequence_eq, e]; rfl⟩

/-- Everything a step can do (R150, R36, R250): it settles an input that is no command, or it takes a word. -/
theorem step_cases (s : State) :
    (s.inputs = [] ∧ step s = .next (idle s)) ∨
    (∃ rest, s.inputs = .reset :: rest ∧ step s = .next (resetBlock { s with inputs := rest })) ∨
    (∃ rest, s.inputs = .powerCycle :: rest ∧ step s = .next (powerCycle { s with inputs := rest })) ∨
    (∃ w rest, s.inputs = .resetDuring w :: rest ∧
      (step s = .next (resetBlock { s with inputs := rest }) ∨
        step s = .next (resetDuring w { s with inputs := rest }))) ∨
    (∃ x rest, s.inputs = x :: rest ∧ s.busy = true ∧ step s = .next (idle s)) ∨
    (∃ p rest, s.inputs = .otherClaim p :: rest ∧ s.busy = false ∧
      step s = .next (claimByOther p (idle { s with inputs := rest }))) ∨
    (∃ p rest, s.inputs = .otherUnclaim p :: rest ∧ s.busy = false ∧
      step s = .next (unclaimByOther p (idle { s with inputs := rest }))) ∨
    (∃ w rest, s.inputs = .command w :: rest ∧ s.busy = false ∧
      ((∃ e, decode w = .error e ∧ step s = .next (respond .illegalCommand (accept rest s))) ∨
       (∃ i, decode w = .ok i ∧ step s = exec i (accept rest s)))) := by
  cases hi : s.inputs with
  | nil => exact .inl ⟨rfl, by simp [step, nextAction, hi]⟩
  | cons x rest =>
    right
    cases x with
    | reset => exact .inl ⟨rest, rfl, by simp [step, nextAction, hi]⟩
    | powerCycle => exact .inr (.inl ⟨rest, rfl, by simp [step, nextAction, hi]⟩)
    | resetDuring w =>
      refine .inr (.inr (.inl ⟨w, rest, rfl, ?_⟩))
      cases hb : s.busy with
      | true => exact .inl (by simp [step, nextAction, hi, hb])
      | false => exact .inr (by simp [step, nextAction, hi, hb])
    | otherClaim p =>
      cases hb : s.busy with
      | true => exact .inr (.inr (.inr (.inl ⟨_, rest, rfl, rfl, by simp [step, nextAction, hi, hb]⟩)))
      | false => exact .inr (.inr (.inr (.inr (.inl ⟨p, rest, rfl, rfl, by simp [step, nextAction, hi, hb]⟩))))
    | otherUnclaim p =>
      cases hb : s.busy with
      | true => exact .inr (.inr (.inr (.inl ⟨_, rest, rfl, rfl, by simp [step, nextAction, hi, hb]⟩)))
      | false => exact .inr (.inr (.inr (.inr (.inr (.inl ⟨p, rest, rfl, rfl, by simp [step, nextAction, hi, hb]⟩)))))
    | command w =>
      cases hb : s.busy with
      | true => exact .inr (.inr (.inr (.inl ⟨_, rest, rfl, rfl, by simp [step, nextAction, hi, hb]⟩)))
      | false =>
        refine .inr (.inr (.inr (.inr (.inr (.inr ⟨w, rest, rfl, rfl, ?_⟩)))))
        cases hd : decode w with
        | error e => exact .inl ⟨e, rfl, by simp [step, nextAction, takeCommand, hi, hb, hd]⟩
        | ok i => exact .inr ⟨i, rfl, by simp [step, nextAction, takeCommand, hi, hb, hd]⟩

/-- What a reset that ends a command comes to (R252): the reset state, but for what the strip shows and the draw a
truncated transmission takes. -/
theorem resetDuring_eq (w : CmdWord) (s : State) :
    ∃ sh dr fi, resetDuring w s = { resetBlock s with shown := sh, draws := dr, freeIndex := fi } ∧
      sh.length = s.shown.length ∧ ∀ j : Nat, sh[j]? = s.shown[j]? ∨
        ∃ i seq, decode w = .ok i ∧ sending i s = some seq ∧ j < seq.length ∧ sh[j]? = seq[j]? := by
  unfold resetDuring
  split
  · exact ⟨s.shown, s.draws, s.freeIndex, rfl, rfl, fun _ => .inl rfl⟩
  · rename_i i hd
    split
    · exact ⟨s.shown, s.draws, s.freeIndex, rfl, rfl, fun _ => .inl rfl⟩
    · rename_i seq hs
      refine ⟨_, _, _, rfl, by simp, fun j => ?_⟩
      rcases latchTruncated_get s.freeIndex seq s.shown j with h | h
      · exact .inl h
      · exact .inr ⟨i, seq, hd, hs, h⟩

end Sys2Proof.Machine
end

