-- ==== Sys2Proof/Laws/PerInstr.lean ====
section
/-! SUPPORT. The family of lemmas with one lemma per constructor of Instr: the word of a command carries the
command's own opcode, and that word matches its row of the opcode table (R92, R96). -/

namespace Sys2Proof.Laws.OpcodeRow

/-- The encoded command carries its opcode, from 0x01 to 0x06, and matches its row's mask and pattern. -/
def Statement (i : Instr) : Prop :=
  opcodeField (encode i) = opcodeOf i ∧ 1 ≤ (opcodeOf i).toNat ∧ (opcodeOf i).toNat ≤ 6 ∧
    encode i &&& opcodeMask = opcodeMatch i

theorem new (pin n : Nat) : Statement (.new pin n) :=
  ⟨opcodeField_packWord .., by simp [opcodeOf], by simp [opcodeOf], by simp only [encode, packWord_mask, opcodeOf]; rfl⟩

theorem setPixel (index r g b : Int) : Statement (.setPixel index r g b) :=
  ⟨opcodeField_packWord .., by simp [opcodeOf], by simp [opcodeOf], by simp only [encode, packWord_mask, opcodeOf]; rfl⟩

theorem fillAll (r g b : Int) : Statement (.fillAll r g b) :=
  ⟨opcodeField_packWord .., by simp [opcodeOf], by simp [opcodeOf], by simp only [encode, packWord_mask, opcodeOf]; rfl⟩

theorem clear : Statement .clear := by unfold Statement; decide

theorem showStrip : Statement .showStrip := by unfold Statement; decide

theorem release : Statement .release := by unfold Statement; decide

end Sys2Proof.Laws.OpcodeRow
end

