-- ==== Sys2Proof/Laws/Pulse.lean ====
section
/-! SUPPORT. The small lemmas of the pulse view. -/

namespace Sys2Proof.Machine

@[simp] theorem symbol_length (t : Timing) (b : Bool) : (symbol t b).length = 2 := by cases b <;> rfl

@[simp] theorem dataWave_nil (t : Timing) : dataWave t [] = [] := rfl

@[simp] theorem dataWave_cons (t : Timing) (b : Bool) (bits : List Bool) :
    dataWave t (b :: bits) = symbol t b ++ dataWave t bits := rfl

@[simp] theorem lowPeriod_high (t : Timing) (extra : Nat) : (lowPeriod t extra).high = false := rfl

@[simp] theorem lowPeriod_ticks (t : Timing) (extra : Nat) : (lowPeriod t extra).ticks = t.tres + extra := rfl

@[simp] theorem leadWave_true (t : Timing) (extra : Nat) : leadWave t true extra = [lowPeriod t extra] := rfl

@[simp] theorem leadWave_false (t : Timing) (extra : Nat) : leadWave t false extra = [] := rfl

@[simp] theorem levels_nil : levels [] = [] := rfl

@[simp] theorem levels_cons (x : Segment) (w : List Segment) :
    levels (x :: w) = List.replicate x.ticks x.high ++ levels w := rfl

@[simp] theorem levels_append (v w : List Segment) : levels (v ++ w) = levels v ++ levels w := by simp [levels]

@[simp] theorem duration_append (v w : List Segment) : duration (v ++ w) = duration v + duration w := by
  simp [duration]

@[simp] theorem duration_symbol (t : Timing) (b : Bool) : duration (symbol t b) = symbolTicks t b := by
  cases b <;> rfl

@[simp] theorem historyWave_nil (t : Timing) (lead : Bool) : historyWave t lead [] = [] := rfl

@[simp] theorem historyWave_cons (t : Timing) (lead : Bool) (x : Transmission) (k : Slack)
    (more : List (Transmission × Slack)) : historyWave t lead ((x, k) :: more) =
      leadWave t lead k.lead ++ transmissionWave t x k.gap ++ historyWave t (!x.complete) more := rfl

/-- A low segment only makes the line low for longer. -/
theorem receive_low (t : Timing) (bits : List Bool) (low : Nat) {x : Segment} (more : List Segment)
    (h : x.high = false) : receive t bits low (x :: more) = receive t bits (low + x.ticks) more := by
  simp [receive, h]

/-- A tick short of the end of a segment moves the counter only. -/
theorem serialTick_within {t : Timing} {k : Slack} {o : ChannelOrder} {seq : List Pixel} {x : Serial}
    (h : x.ticks + 1 < stageTicks t k o seq x.stage) :
    serialTick t k o seq x = some { x with ticks := x.ticks + 1 } := if_pos h

/-- The last tick of a segment goes to the next stage, with the counter at 0. -/
theorem serialTick_last {t : Timing} {k : Slack} {o : ChannelOrder} {seq : List Pixel} {x : Serial}
    (h : ¬ x.ticks + 1 < stageTicks t k o seq x.stage) :
    serialTick t k o seq x = (stageNext seq.length x.stage).map fun g => { stage := g, ticks := 0 } := if_neg h

end Sys2Proof.Machine
end

