-- ==== Sys2Proof/Tests/Slice0.lean ====
section
/-! SUPPORT. The model's own tests: the checks of WellFormed, words of spec/95_test_vectors.md decoded, at most two
single steps per command with the results that file gives, and, for every statement with hypotheses, a concrete case
that meets them all. -/

namespace Sys2Proof.Machine.Tests

/-! ### WellFormed: an ill-formed command for each check (95 section 2.2, R95) -/

theorem test_wellFormed_accepts_the_extremes :
    Instr.WellFormed (.new 65535 65535) ∧ Instr.WellFormed (.setPixel (-32768) 32767 (-32768) 255) ∧
    Instr.WellFormed (.fillAll 256 (-1) 255) := by decide

theorem test_wellFormed_refuses_new_operands :
    (Instr.new 0 70000).wellFormed = false ∧ (Instr.new 65536 5).wellFormed = false := by decide

theorem test_wellFormed_refuses_setPixel_operands :
    (Instr.setPixel 70000 0 0 0).wellFormed = false ∧ (Instr.setPixel 0 40000 0 0).wellFormed = false ∧
    (Instr.setPixel 0 0 (-32769) 0).wellFormed = false ∧ (Instr.setPixel 0 0 0 32768).wellFormed = false := by decide

theorem test_wellFormed_refuses_fillAll_operands :
    (Instr.fillAll 32768 0 0).wellFormed = false ∧ (Instr.fillAll 0 (-32769) 0).wellFormed = false ∧
    (Instr.fillAll 0 0 32768).wellFormed = false := by decide

/-! ### Decoding: words of 95 section 2.2, and for each command a word put together bit by bit from R91 to R93 -/

theorem test_decode_new :
    decode 0x010000000500000000#72 = .ok (.new 0 5) ∧ decode 0x01FFFFFFFF00000000#72 = .ok (.new 65535 65535) ∧
    decode 0x0100000005FFFFFFFF#72 = .ok (.new 0 5) := by decide

theorem test_decode_setPixel :
    decode 0x0280007FFF800000FF#72 = .ok (.setPixel (-32768) 32767 (-32768) 255) ∧
    decode 0x02FFFF000900090009#72 = .ok (.setPixel (-1) 9 9 9) ∧
    decode 0x020004000100020003#72 = .ok (.setPixel 4 1 2 3) := by decide

theorem test_decode_fillAll :
    decode 0x030000001000200030#72 = .ok (.fillAll 16 32 48) ∧
    decode 0x03ABCD001000200030#72 = .ok (.fillAll 16 32 48) := by decide

theorem test_decode_without_operands :
    decode 0x04FFFFFFFFFFFFFFFF#72 = .ok .clear ∧ decode 0x05DEADBEEF12345678#72 = .ok .showStrip ∧
    decode 0x060000000000000000#72 = .ok .release := by decide

theorem test_decode_reserved :
    decode 0x000000000000000000#72 = .error (.reservedOpcode 0x00#8) ∧
    decode 0x070000000000000000#72 = .error (.reservedOpcode 0x07#8) ∧
    decode 0xFF0000000000000000#72 = .error (.reservedOpcode 0xFF#8) := by decide

/-- `set_pixel(4, 1, 2, 3)`: opcode 00000010, then the four fields, each 16 bits. -/
theorem test_decode_setPixel_bit_by_bit :
    decode 0b00000010_0000000000000100_0000000000000001_0000000000000010_0000000000000011#72 =
      .ok (.setPixel 4 1 2 3) := by decide

/-- `new(3, 2)`: opcode 00000001, pin, num_pixels, two ignored fields. -/
theorem test_decode_new_bit_by_bit :
    decode 0b00000001_0000000000000011_0000000000000010_0000000000000000_0000000000000000#72 =
      .ok (.new 3 2) := by decide

theorem test_encode :
    encode (.setPixel 0 300 (-10) 128) = 0x020000012CFFF60080#72 ∧
    encode (.fillAll (-5) 999 7) = 0x030000FFFB03E70007#72 ∧
    encode (.new 7 0) = 0x010007000000000000#72 ∧ encode .clear = 0x040000000000000000#72 ∧
    encode .showStrip = 0x050000000000000000#72 ∧ encode .release = 0x060000000000000000#72 := by decide

theorem test_decodeTableWord :
    decodeTableWord 72 0x010000000500000000 = some (.new 0 5) ∧ decodeTableWord 72 0x810000000500000000 = none := by
  decide

/-! ### Text (95 section 2.2 and R100) -/

theorem test_assemble :
    assemble "set_pixel(0, 300, -10, 128)".toList = some 0x020000012CFFF60080#72 ∧
    assemble "new(pin=0, num_pixels=5)".toList = some 0x010000000500000000#72 ∧
    assemble "show()".toList = some 0x050000000000000000#72 := by decide

theorem test_assemble_does_not_wrap :
    assemble "set_pixel(0, 40000, 0, 0)".toList = none ∧ assemble "new(-1, 5)".toList = none ∧
    assemble "new(0, -3)".toList = none ∧ assemble "new(0, 70000)".toList = none := by decide

theorem test_assembleProgram :
    assembleProgram "clear()\nshow()".toList =
      some [.command 0x040000000000000000#72, .command 0x050000000000000000#72] := by decide

/-! ### Clamping, the wire and the pulses (95 sections 2.1, 2.6, 2.7) -/

theorem test_clamp8 :
    [-32768, -10, -1, 0, 128, 254, 255, 256, 300, 1023, 32767].map (fun v : Int => (clamp8 v).toNat) =
      [0, 0, 0, 0, 128, 254, 255, 255, 255, 255, 255] := by decide

/-- A run of bits as a number, first bit most significant. -/
def bitsValue (bits : List Bool) : Nat := bits.foldl (fun n b => 2 * n + b.toNat) 0

theorem test_wireBits :
    bitsValue (wireBits .grb [{ r := 255, g := 0, b := 128 }]) = 0x00FF80 ∧
    bitsValue (wireBits .rgb [{ r := 165, g := 60, b := 1 }]) = 0xA53C01 ∧
    bitsValue (wireBits .brg [{ r := 165, g := 60, b := 1 }]) = 0x01A53C ∧
    bitsValue (wireBits .grb [{ r := 16, g := 32, b := 48 }, { r := 255, g := 0, b := 0 }]) = 0x20103000FF00 := by
  decide

/-- Channel value 0x80 in ticks, and the shape of its first two symbols. -/
theorem test_pulses :
    duration (dataWave Config.standard.timing (channelBits 0x80#8)) = 200 ∧
    (dataWave Config.standard.timing (channelBits 0x80#8)).take 4 =
      [{ high := true, ticks := 16 }, { high := false, ticks := 9 },
       { high := true, ticks := 8 }, { high := false, ticks := 17 }] := by decide

/-- One pixel-frame is 600 ticks; with the least gap 1600. -/
theorem test_duration :
    duration (wave Config.standard.timing (wireBits .grb [{ r := 255, g := 0, b := 128 }]) 0) = 1600 := by decide

/-- A transmission truncated after one bit and a whole one after it: the low period of R188 keeps them apart. -/
theorem test_history_after_fault :
    receive Config.standard.timing [] 0 (historyWave Config.standard.timing true
      [({ bits := [true], complete := false }, { lead := 0, gap := 0 }),
       ({ bits := [false, true], complete := true }, { lead := 0, gap := 0 })]) = [[true], [false, true]] := by decide

/-- The nominal times of R267 at 20 MHz. -/
theorem test_nominal :
    nominalTiming 20000000 1000 = { t0h := 8, t0l := 17, t1h := 16, t1l := 9, tres := 1000 } := by decide

/-! ### Single steps (95 sections 2.3 to 2.8) -/

/-- The next state, if there is one. -/
def after (r : Result) : Option State :=
  match r with
  | .next s => some s
  | _ => none

/-- The status answered, the buffer and the transmission count after a command. -/
def outcome (r : Result) : Option (Status × Option (List Pixel) × Nat) :=
  (after r).map fun s => (s.status, s.driver.map Driver.buf, txCount s)

/-- The block as it was reset, with other claimants' pins and the next draws of the fault oracle. -/
def blank (claimed : List Nat) (draws : List (Option Nat)) : State :=
  { State.reset with claimed := claimed, draws := draws }

/-- A `Ready` driver on pin 0 with a buffer, after its initial commit, with the next draws of the fault oracle. -/
def ready (buf : List Pixel) (draws : List (Option Nat)) : State :=
  { State.reset with
    phase := .ready, driver := some { pin := 0, numPixels := buf.length, buf := buf }, ownsLine := true
    line := .low, claimed := [0], draws := draws
    wire := [{ bits := List.replicate (24 * buf.length) false, complete := true }] }

/-- The start of 95 section 2.8. -/
def two : List Pixel := [{ r := 1, g := 2, b := 3 }, { r := 1, g := 2, b := 3 }]

/-- The same driver after RELEASE. -/
def released : State :=
  { ready (List.replicate 2 Pixel.black) [] with phase := .released, ownsLine := false, line := .z, claimed := [] }

theorem test_new :
    outcome (exec (.new 7 1) (blank [8] [none])) = some (.ok, some [Pixel.black], 1) ∧
    (after (exec (.new 7 1) (blank [8] [none]))).map State.claimed = some [7, 8] := by decide

/-- A fault undoes the construction; the claim is tried before the size is looked at. -/
theorem test_new_errors :
    outcome (exec (.new 0 1) (blank [] [some 5])) = some (.transmitFault, none, 1) ∧
    outcome (exec (.new 7 0) (blank [8] [])) = some (.invalidConfiguration, none, 0) ∧
    outcome (exec (.new 8 0) (blank [8] [])) = some (.peripheralUnavailable, none, 0) := by decide

theorem test_setPixel :
    outcome (exec (.setPixel 0 300 (-10) 128) (ready [Pixel.black, Pixel.black] [])) =
      some (.ok, some [{ r := 255, g := 0, b := 128 }, Pixel.black], 1) := by decide

theorem test_setPixel_out_of_range :
    outcome (exec (.setPixel 2 9 9 9) (ready two [])) = some (.indexOutOfRange, some two, 1) ∧
    outcome (exec (.setPixel (-1) 9 9 9) (ready two [])) = some (.indexOutOfRange, some two, 1) := by decide

theorem test_fillAll :
    outcome (exec (.fillAll (-5) 999 7) (ready two [])) =
      some (.ok, some [{ r := 0, g := 255, b := 7 }, { r := 0, g := 255, b := 7 }], 1) := by decide

theorem test_clear :
    outcome (exec .clear (ready two [])) = some (.ok, some [Pixel.black, Pixel.black], 1) ∧
    outcome (exec .clear released) = some (.useAfterRelease, some [Pixel.black, Pixel.black], 1) := by decide

/-- The whole buffer: 0x020103 twice. -/
theorem test_show :
    (after (exec .showStrip (ready two [none]))).map (fun s =>
      (s.status, s.wire.getLast?.map fun x => (bitsValue x.bits, x.bits.length, x.complete))) =
      some (.ok, some (0x020103020103, 48, true)) := by decide

/-- A fault after 30 bits. -/
theorem test_show_fault :
    (after (exec .showStrip (ready two [some 30]))).map (fun s =>
      (s.status, s.wire.getLast?.map fun x => (bitsValue x.bits, x.bits.length, x.complete), s.phase)) =
      some (.transmitFault, some (0x0201030 * 4, 30, false), .ready) := by decide

theorem test_release :
    (after (exec .release (ready two [some 10]))).map (fun s =>
      (s.status, s.phase, s.line, s.claimed, s.wire.getLast?)) =
      some (.transmitFault, .released, .z, [], some { bits := List.replicate 10 false, complete := false }) := by
  decide

theorem test_release_twice : outcome (exec .release released) = some (.ok, some [Pixel.black, Pixel.black], 1) := by
  decide

/-- A reserved opcode, presented as the host presents an instruction. -/
theorem test_step_reserved :
    (after (step (released.withFetchWord 72 0))).map (fun s => (s.status, s.rsp, s.phase)) =
      some (.illegalCommand, some .illegalCommand, .released) := by decide

/-- `new(0, 1)` presented at reset with no fault drawn. -/
theorem test_step_new :
    outcome (step ((blank [] [none]).withFetchWord 72 0x010000000100000000)) = some (.ok, some [Pixel.black], 1) := by
  decide

/-! ### Witnesses: for each statement with hypotheses, a case that meets them all, clause by clause -/

/-- A state with a command word on the port. -/
def presented (w : CmdWord) (s : State) : State := { s with inputs := [.command w] }

/-- Four pixels at most. -/
def small : State := { blank [] [none] with cfg := { Config.standard with maxPixels := 4 } }

theorem witness_EncodedCommandsDecodeBack : Instr.WellFormed (.setPixel (-32768) 32767 (-32768) 255) := by decide

theorem witness_DecodedWordsReencodeCanonically : decode 0x03ABCD001000200030#72 = .ok (.fillAll 16 32 48) := by
  decide

theorem witness_DecodingIsTotalByOpcode :
    (0x01FFFFFFFF00000000#72).extractLsb' 64 8 = 0x01#8 ∧ (0x0280007FFF800000FF#72).extractLsb' 64 8 = 0x02#8 ∧
    (0x03ABCD001000200030#72).extractLsb' 64 8 = 0x03#8 ∧ (0x04FFFFFFFFFFFFFFFF#72).extractLsb' 64 8 = 0x04#8 ∧
    (0x05DEADBEEF12345678#72).extractLsb' 64 8 = 0x05#8 ∧ (0x060000000000000000#72).extractLsb' 64 8 = 0x06#8 ∧
    (0x000000000000000000#72).extractLsb' 64 8 = 0x00#8 ∧ 0x07#8 ≤ (0x070000000000000000#72).extractLsb' 64 8 ∧
    0x07#8 ≤ (0xFF0000000000000000#72).extractLsb' 64 8 := by decide

theorem witness_IgnoredFieldsHaveNoEffect :
    (0x06#8 = 0x04#8 ∨ 0x06#8 = 0x05#8 ∨ 0x06#8 = 0x06#8) ∧ decode 0x04FFFFFFFFFFFFFFFF#72 = .ok .clear := by decide

theorem witness_TransportIsBigEndian :
    decode 0x01FFFFFFFF00000000#72 = .ok (.new 65535 65535) ∧
    decode 0x070000000000000000#72 = .error (.reservedOpcode 0x07#8) ∧
    ([1, 0, 0, 0, 5, 0, 0, 0] : List Byte).length < 9 := by decide

theorem witness_StepRunsThePresentedCommand :
    (presented 0x01FFFFFFFF00000000#72 State.reset).busy = false ∧
    (presented 0x01FFFFFFFF00000000#72 State.reset).inputs = .command 0x01FFFFFFFF00000000#72 :: [] ∧
    decode 0x01FFFFFFFF00000000#72 = .ok (.new 65535 65535) := by decide

theorem witness_ReservedOpcodeAnswersIllegalCommand :
    (presented 0x000000000000000000#72 released).busy = false ∧
    (presented 0x000000000000000000#72 released).inputs = .command 0x000000000000000000#72 :: [] ∧ opcodeField 0x000000000000000000#72 = 0x00#8 ∧
    0x07#8 ≤ opcodeField 0x070000000000000000#72 ∧ 0x07#8 ≤ opcodeField 0xFF0000000000000000#72 := by decide

theorem witness_BusyLastsFromAcceptanceToResponse :
    (presented 0x050000000000000000#72 { State.reset with busy := true }).busy = true ∧ State.reset.inputs = [] ∧
    ∃ t, exec .clear (ready two []) = .next t := ⟨rfl, rfl, _, rfl⟩

theorem witness_StatusIsWrittenAndNeverRead : ∃ t, exec (.setPixel 2 0 0 0) (ready two []) = .next t := ⟨_, rfl⟩

theorem witness_CommandsOutOfPlaceAnswerWrongPhase :
    State.reset.phase = .uninitialized ∧ (∀ p n, Instr.release ≠ .new p n) ∧ (ready two []).phase = .ready :=
  ⟨rfl, by simp, rfl⟩

theorem witness_ReleasedDriverRejectsCommands :
    released.phase = .released ∧ Instr.new 3 2 ≠ .release ∧ ∃ t, exec .release released = .next t :=
  ⟨rfl, by decide, _, rfl⟩

/-- The phases of ClearIsFillAllZero. -/
theorem witness_ClearIsFillAllZero :
    State.reset.phase = .uninitialized ∧ (ready two []).phase = .ready ∧
    (ready two []).driver = some { pin := 0, numPixels := 2, buf := two } ∧ released.phase = .released := by decide

theorem witness_SecondReleaseIsNoOp : released.phase = .released := rfl

/-- One case for each line of R163. -/
theorem witness_PhaseTransitionsAreExactlyThese :
    (∃ t, exec (.new 0 1) (blank [] [none]) = .next t ∧ t.status = .ok) ∧
    (∃ t, exec (.new 0 1) (blank [] [some 0]) = .next t ∧ t.status ≠ .ok) ∧
    (∃ t, exec .showStrip State.reset = .next t ∧ ¬ ∃ p n, Instr.showStrip = .new p n) ∧
    (∃ t, exec .release (ready two [some 48]) = .next t) ∧ (∃ t, exec .showStrip (ready two [some 0]) = .next t) ∧
    (∃ t, exec .clear released = .next t) ∧
    (∃ t, step { released with inputs := [.reset] } = .next t) ∧
    (∃ t, step { released with inputs := [.powerCycle] } = .next t) ∧
    ∃ t, step { ready two [] with inputs := [.resetDuring 0x050000000000000000#72] } = .next t :=
  ⟨⟨_, rfl, rfl⟩, ⟨_, rfl, by decide⟩, ⟨_, rfl, by simp⟩, ⟨_, rfl⟩, ⟨_, rfl⟩, ⟨_, rfl⟩, ⟨_, rfl⟩, ⟨_, rfl⟩, _, rfl⟩

/-- Boundary operands of each clause: the last pin, a pin someone holds, 0, 1 and `MAX_PIXELS` pixels. -/
theorem witness_NewClaimsConstructsAndCommits :
    (blank [8] []).phase = .uninitialized ∧ pinClaimable Config.standard 65536 = false ∧ 8 ∈ (blank [8] []).claimed ∧
    pinClaimable Config.standard 65535 = true ∧ 65535 ∉ (blank [8] []).claimed ∧
    1 ≤ 1 ∧ 65535 ≤ Config.standard.maxPixels.toNat ∧
    nextDraw (blank [8] [none]) = none ∧ nextDraw (blank [8] [some 0]) = some 0 := by decide

theorem witness_NewBeyondMaxPixelsIsRefused :
    small.phase = .uninitialized ∧ pinClaimable small.cfg 0 = true ∧ 0 ∉ small.claimed ∧
    small.cfg.maxPixels.toNat < 5 := by decide

theorem witness_FailedNewLeavesNoDriver :
    State.reset.Shape ∧ (blank [] [some 24]).Shape ∧ State.reset.phase = .uninitialized ∧
    (∃ t, exec (.new 7 0) State.reset = .next t ∧ t.status ≠ .ok) ∧
    ∃ t, exec (.new 0 1) (blank [] [some 24]) = .next t ∧ t.status ≠ .ok :=
  ⟨by decide, by decide, rfl, ⟨_, rfl, by decide⟩, _, rfl, by decide⟩

/-- The hypotheses of SetPixelStoresOrReportsIndex and of SetPixelThenReadGivesClampedTriple, with the first and the
last cell and the indices next to them. -/
theorem witness_SetPixel :
    (ready two []).Shape ∧ (ready two []).phase = .ready ∧
    (ready two []).driver = some { pin := 0, numPixels := 2, buf := two } ∧
    ((0 : Int) ≤ 0 ∧ (0 : Int) < 2) ∧ ((0 : Int) ≤ 1 ∧ (1 : Int) < 2) ∧
    ¬ ((0 : Int) ≤ -1 ∧ (-1 : Int) < 2) ∧ ¬ ((0 : Int) ≤ 2 ∧ (2 : Int) < 2) := by decide

/-- The hypotheses of FillAllStoresOneColourEverywhere and of ClearBlackensEveryCell. -/
theorem witness_FillAll_and_Clear :
    (ready two []).Shape ∧ (ready two []).phase = .ready ∧
    (ready two []).driver = some { pin := 0, numPixels := 2, buf := two } := by decide

/-- The hypotheses of MutationsAreIdempotent and of MutationsTouchOnlyTheBuffer, for each of the three commands. -/
theorem witness_Mutations :
    (∃ t, exec (.setPixel 1 1 1 1) (ready two []) = .next t) ∧ (∃ t, exec (.fillAll 9 8 7) (ready two []) = .next t) ∧
    (∃ t, exec .clear (ready two []) = .next t) ∧ (∃ t, exec .clear State.reset = .next t) ∧
    State.reset.driver = none ∧ (∃ x r g b, Instr.setPixel 1 1 1 1 = .setPixel x r g b) ∧
    (ready two []).driver = some { pin := 0, numPixels := 2, buf := two } :=
  ⟨⟨_, rfl⟩, ⟨_, rfl⟩, ⟨_, rfl⟩, ⟨_, rfl⟩, rfl, ⟨1, 1, 1, 1, rfl⟩, rfl⟩

theorem witness_BufferLengthIsImmutable :
    (ready two [none]).Shape ∧ (ready two [none]).driver = some { pin := 0, numPixels := 2, buf := two } ∧
    ∃ t, exec .release (ready two [none]) = .next t := ⟨by decide, by decide, _, rfl⟩

/-- The hypotheses of ShowTransmitsTheWholeBuffer, without a fault and with one. -/
theorem witness_ShowTransmitsTheWholeBuffer :
    (ready two []).phase = .ready ∧ (ready two []).driver = some { pin := 0, numPixels := 2, buf := two } ∧
    (ready two []).ownsLine = true ∧ nextDraw (ready two [none]) = none ∧
    nextDraw (ready two [some 48]) = some 48 := by decide

theorem witness_ShowAgainSendsTheBufferAgain :
    ∃ t, exec .showStrip (ready two [some 30, none]) = .next t ∧ nextDraw t = none := ⟨_, rfl, rfl⟩

theorem witness_CommittingCommandsFrame :
    (∃ t, exec .showStrip (ready two [none]) = .next t) ∧ (∃ t, exec (.new 7 1) (blank [8] [none]) = .next t) ∧
    (∃ t, exec .release (ready two [none]) = .next t) ∧ 8 ≠ 7 ∧
    (∀ d, (ready two [none]).driver = some d → 8 ≠ d.pin) :=
  ⟨⟨_, rfl⟩, ⟨_, rfl⟩, ⟨_, rfl⟩, by decide, by intro d h; cases h; decide⟩

theorem witness_ReleaseBlackensCommitsAndUnclaims :
    (ready two [none]).Shape ∧ (ready two [none]).phase = .ready ∧
    (ready two [none]).driver = some { pin := 0, numPixels := 2, buf := two } ∧ nextDraw (ready two [none]) = none ∧
    (ready two [some 48]).Shape ∧ nextDraw (ready two [some 48]) = some 48 ∧
    State.reset.phase = .uninitialized := by decide

/-- An error without side effects, the one with them in each command that has it, and a reserved opcode. -/
theorem witness_ErrorsArePrecise :
    (ready two [some 30]).Shape ∧
    (∃ t, exec (.setPixel 2 0 0 0) (ready two [some 30]) = .next t ∧ t.status ≠ .ok ∧ t.status ≠ .transmitFault) ∧
    (∃ t, exec .showStrip (ready two [some 30]) = .next t ∧ t.status = .transmitFault) ∧
    (∃ t, exec .release (ready two [some 30]) = .next t ∧ t.status = .transmitFault) ∧
    (blank [8] [some 24]).Shape ∧
    (∃ t, exec (.new 7 1) (blank [8] [some 24]) = .next t ∧ t.status = .transmitFault) ∧
    decode 0x070000000000000000#72 = .error (.reservedOpcode 0x07#8) :=
  ⟨by decide, ⟨_, rfl, by decide, by decide⟩, ⟨_, rfl, rfl⟩, ⟨_, rfl, rfl⟩, by decide, ⟨_, rfl, rfl⟩, by decide⟩

/-- Each error that a command of the table can answer, answered. -/
theorem witness_EveryErrorHasItsCause :
    (∃ t, exec (.new 7 0) (blank [8] []) = .next t ∧ t.status = .invalidConfiguration) ∧
    (∃ t, exec (.new 8 1) (blank [8] []) = .next t ∧ t.status = .peripheralUnavailable) ∧
    (∃ t, exec (.setPixel (-1) 0 0 0) (ready two []) = .next t ∧ t.status = .indexOutOfRange) ∧
    (∃ t, exec .showStrip released = .next t ∧ t.status = .useAfterRelease) ∧
    (∃ t, exec .release (ready two [some 0]) = .next t ∧ t.status = .transmitFault) ∧
    ∃ t, exec (.new 9 3) (ready two []) = .next t ∧ t.status = .wrongPhase :=
  ⟨⟨_, rfl, rfl⟩, ⟨_, rfl, rfl⟩, ⟨_, rfl, rfl⟩, ⟨_, rfl, rfl⟩, ⟨_, rfl, rfl⟩, _, rfl, rfl⟩

theorem witness_WireBitNumberFormula : 47 < 24 * two.length := by decide

theorem witness_CursorWalksTheTransmission : two ≠ [] ∧ 24 * two.length ≤ 48 := by decide

theorem witness_TransmissionDeterminesTheBuffer : wireBits .grb two = wireBits .grb two := rfl

theorem witness_TransmitRecordsTheWholeBuffer : nextDraw (ready two [none]) = none := rfl

theorem witness_FaultRecordsTheBitsSent :
    nextDraw (ready two [some 48]) = some 48 ∧ 48 ≤ 24 * two.length ∧ nextDraw (ready two [some 0]) = some 0 := by
  decide

theorem witness_WireGrowsByOneEntryPerCommit :
    (∃ t, exec .showStrip (ready two [some 0]) = .next t ∧ invokesTransmit .showStrip (ready two [some 0]) = true) ∧
    ∃ t, exec (.new 7 0) State.reset = .next t ∧ invokesTransmit (.new 7 0) State.reset = false :=
  ⟨⟨_, rfl, rfl⟩, _, rfl, by decide⟩

theorem witness_WaveIsOneSymbolPerBit :
    (wireBits .grb two)[47]? = some true ∧ lowPeriod Config.standard.timing 0 ∈ leadWave Config.standard.timing true 0 := by
  decide

theorem witness_NoLowInsideATransmissionReachesReset :
    Config.standard.timing.valid = true ∧
    { high := false, ticks := 17 } ∈ dataWave Config.standard.timing [false, true] := by decide

theorem witness_TickSerializerMakesTheWaveform :
    Config.standard.timing.valid = true ∧ [Pixel.black] ≠ [] ∧
    duration (leadWave Config.standard.timing true 0 ++ wave Config.standard.timing (wireBits .grb [Pixel.black]) 7) ≤
      2607 := by decide

theorem witness_TransmissionDuration : ({ t0h := 8, t0l := 17, t1h := 16, t1l := 9, tres := 1000 } : Timing) =
    Config.standard.timing ∧ 8 + 17 = 16 + 9 := by decide

theorem witness_GapsSeparateTransmissions :
    Config.standard.timing.valid = true ∧ Config.standard.timing.tres ≤ 1000 ∧ [true] ≠ [] ∧ [false] ≠ [] := by decide

theorem witness_HistoryIsReadEntryByEntry : Config.standard.timing.valid = true := by decide

theorem witness_ClaimIsAtomicAndExclusive :
    (pinClaimable (blank [8] []).cfg 65535 = true ∧ 65535 ∉ (blank [8] []).claimed) ∧
    ¬ (pinClaimable (blank [8] []).cfg 8 = true ∧ 8 ∉ (blank [8] []).claimed) ∧
    ¬ (pinClaimable (blank [8] []).cfg 65536 = true ∧ 65536 ∉ (blank [8] []).claimed) := by decide

theorem witness_UnclaimFreesThePin : pinClaimable (ready two []).cfg 0 = true := by decide

/-- Another claimant asks for the block's pin, for another pin, and hands the block's pin back. -/
theorem witness_OtherClaimantsCannotTakeThePin :
    (ready two []).Inv ∧ ownPin (ready two []) = some 0 ∧
    (∃ t, step { ready two [] with inputs := [.otherClaim 0] } = .next t) ∧
    (∃ t, step { ready two [] with inputs := [.otherClaim 5] } = .next t) ∧
    ∃ t, step { ready two [] with inputs := [.otherUnclaim 0] } = .next t :=
  ⟨by decide, by decide, ⟨_, rfl⟩, ⟨_, rfl⟩, _, rfl⟩

/-- A two-pixel transmission to five LEDs: the last LED it reaches, and the last of all. -/
theorem witness_StripShowsWhatWasSent :
    nextDraw (ready two [none]) = none ∧ 1 < (ready two [none]).shown.length ∧ 1 < two.length ∧
    4 < (ready two [none]).shown.length ∧ ¬ 4 < two.length ∧ nextDraw (ready two [some 30]) = some 30 := by decide

/-- The hypotheses of ResetInputRestoresResetValues, and of ResetEndsACommandWithoutResponse with a SHOW cut short. -/
theorem witness_Reset :
    ({ ready two [] with inputs := [.reset] } : State).inputs = .reset :: [] ∧
    ({ ready two [] with inputs := [.powerCycle] } : State).inputs = .powerCycle :: [] ∧
    ({ ready two [] with inputs := [.resetDuring 0x050000000000000000#72] } : State).inputs =
      .resetDuring 0x050000000000000000#72 :: [] ∧
    decode 0x050000000000000000#72 = .ok .showStrip ∧ sending .showStrip (ready two []) = some two := by decide

theorem witness_StepKeepsTheInvariant :
    (presented 0x050000000000000000#72 (ready two [some 30])).Inv ∧
    ∃ t, step (presented 0x050000000000000000#72 (ready two [some 30])) = .next t := ⟨by decide, _, rfl⟩

/-- The hypothesis of StepAnswersFromTheInvariant, where the step answers and where it refuses. -/
theorem witness_StepAnswersFromTheInvariant :
    (ready two []).Inv ∧ (presented 0x010000000500000000#72 small).Inv := by decide

theorem witness_EveryProgramRunsToItsEnd :
    (presented 0x01FFFFFFFF00000000#72 State.reset).Inv ∧
    onlyCommands State.reset.cfg (presented 0x01FFFFFFFF00000000#72 State.reset).inputs ∧
    0 < (presented 0x01FFFFFFFF00000000#72 State.reset).inputs.length := by
  refine ⟨by decide, ?_, by decide⟩
  intro x hx
  simp only [presented, List.mem_cons, List.not_mem_nil, or_false] at hx
  refine ⟨_, hx, fun p n h => ?_⟩
  rw [show decode 0x01FFFFFFFF00000000#72 = .ok (.new 65535 65535) by decide] at h
  cases h
  decide

theorem witness_ReleasedIsTerminal :
    released.phase = .released ∧ noReset (presented 0x050000000000000000#72 released).inputs ∧
    ∃ t, core.run 1 (presented 0x050000000000000000#72 released) = .next t := by
  refine ⟨rfl, ?_, _, rfl⟩
  intro x hx
  simp only [presented, List.mem_cons, List.not_mem_nil, or_false] at hx
  subst hx
  simp

theorem witness_AnswersDoNotDependOnColours :
    (ready two [some 30]).driver = some { pin := 0, numPixels := 2, buf := two } ∧
    [Pixel.black, Pixel.black].length = two.length ∧ ∃ t, exec .showStrip (ready two [some 30]) = .next t :=
  ⟨by decide, by decide, _, rfl⟩

theorem witness_ConfigurationIsConstant : ∃ t, step (presented 0x040000000000000000#72 State.reset) = .next t :=
  ⟨_, rfl⟩

end Sys2Proof.Machine.Tests
end

section
/-! Proofs, spec/00_scope.md: what a step does with each input, the frame of the mutations, and what no command
reads or writes. -/

namespace Sys2Proof.Machine

/-! ### One equation per input a step takes -/

/-- An idle block takes a command word and runs the command it decodes to (R90, R150). -/
theorem step_command {s : State} {w : CmdWord} {rest : List Input} {i : Instr} (hb : s.busy = false)
    (hi : s.inputs = .command w :: rest) (hw : decode w = .ok i) : step s = exec i (accept rest s) := by
  simp [step, nextAction, takeCommand, hi, hb, hw]

/-- The reset input acts on a busy block too (R250). -/
theorem step_reset {s : State} {rest : List Input} (hi : s.inputs = .reset :: rest) :
    step s = .next (resetBlock { s with inputs := rest }) := by
  simp [step, nextAction, hi]

/-- A power cycle acts on a busy block too (R251). -/
theorem step_powerCycle {s : State} {rest : List Input} (hi : s.inputs = .powerCycle :: rest) :
    step s = .next (powerCycle { s with inputs := rest }) := by
  simp [step, nextAction, hi]

@[simp] theorem tableWord_toNat (w : CmdWord) : tableWord 72 w.toNat = w := by
  simp [tableWord, Nat.mod_eq_of_lt w.isLt]

/-- Settles O8: the step is `step_command`, and `withFetchWord` puts the word on the port of an idle block. -/
theorem stepRunsThePresentedCommand : Obligations.StepRunsThePresentedCommand := by
  unfold Obligations.StepRunsThePresentedCommand
  refine ⟨fun s w rest i hb hi hw => step_command hb hi hw, fun s w i hw => ?_⟩
  have hword : s.withFetchWord 72 w.toNat = presentWord w s := by
    rw [State.withFetchWord, tableWord_toNat]
  rw [hword]
  exact step_command (s := presentWord w s) rfl rfl hw

/-! ### Reset -/

/-- Of the allocator's pins a reset hands back the block's own and no other (R251). -/
@[simp] theorem mem_withoutOwnClaim (q : Nat) (s : State) :
    q ∈ withoutOwnClaim s ↔ q ∈ s.claimed ∧ ownPin s ≠ some q := by
  unfold withoutOwnClaim
  cases ownPin s with
  | none => simp
  | some p => simp [eq_comm]

@[simp] theorem powerUpStrip_length (draw : Nat) (shown : List Pixel) :
    (powerUpStrip draw shown).length = shown.length := by simp [powerUpStrip]

/-- Settles O51: each of the two inputs comes to `resetBlock`, and a power cycle also to new colours on the strip. -/
theorem resetInputRestoresResetValues : Obligations.ResetInputRestoresResetValues := by
  unfold Obligations.ResetInputRestoresResetValues
  rintro s rest (hi | hi)
  · exact ⟨_, step_reset hi, rfl, fun q => mem_withoutOwnClaim q _, fun _ => ⟨rfl, rfl⟩, rfl⟩
  · refine ⟨_, step_powerCycle hi, rfl, fun q => mem_withoutOwnClaim q _, fun hr => ?_, powerUpStrip_length _ _⟩
    simp [hi] at hr

/-! ### The frame of the mutations -/

/-- The commands that change the buffer and nothing on the line (R75, R154 to R156). -/
def IsMutation (i : Instr) : Prop :=
  (∃ x r g b, i = .setPixel x r g b) ∨ (∃ r g b, i = .fillAll r g b) ∨ i = .clear

/-- Everything a mutation can do: it answers, and nothing else or a buffer of the same length changes. -/
theorem exec_mutation_cases {i : Instr} {s t : State} (hm : IsMutation i) (h : exec i s = .next t) :
    (∃ st, t = respond st s) ∨
    ∃ d buf, s.driver = some d ∧ buf.length = d.buf.length ∧ t = respond .ok (setBuffer d buf s) := by
  rcases exec_cases h with ⟨p, n, rfl, -⟩ | ⟨-, -, e⟩ | ⟨-, -, -, e⟩ | ⟨-, -, e⟩ | ⟨-, d, hd, body⟩
  · simp [IsMutation] at hm
  · exact .inl ⟨_, e⟩
  · exact .inl ⟨_, e⟩
  · exact .inl ⟨_, e⟩
  · rcases body with ⟨x, r, g, b, -, e⟩ | ⟨r, g, b, -, e⟩ | ⟨-, e⟩ | ⟨rfl, -⟩ | ⟨rfl, -⟩
    · split at e
      · exact .inr ⟨d, _, hd, List.length_set, e⟩
      · exact .inl ⟨_, e⟩
    · exact .inr ⟨d, _, hd, pbFill_length r g b d.buf, e⟩
    · exact .inr ⟨d, _, hd, List.length_replicate, e⟩
    · simp [IsMutation] at hm
    · simp [IsMutation] at hm

/-- Settles O26, by the two things a mutation can do. -/
theorem mutationsTouchOnlyTheBuffer : Obligations.MutationsTouchOnlyTheBuffer := by
  unfold Obligations.MutationsTouchOnlyTheBuffer
  intro i s t hm h
  rcases exec_mutation_cases hm h with ⟨st, rfl⟩ | ⟨d, buf, hd, hlen, rfl⟩
  · exact ⟨rfl, id, fun d hd => ⟨d, hd, rfl, rfl, rfl⟩⟩
  · refine ⟨rfl, fun hn => by simp [hd] at hn, fun d' hd' => ?_⟩
    obtain rfl : d = d' := Option.some.inj (hd.symm.trans hd')
    exact ⟨_, rfl, rfl, rfl, hlen⟩

/-! ### The configuration -/

@[simp] theorem showBuffer_cfg (d : Driver) (s : State) : (showBuffer d s).cfg = s.cfg := by
  rcases showBuffer_cases d s with ⟨-, e⟩ | ⟨_, -, e⟩ <;> rw [e]

@[simp] theorem tearDown_cfg (d : Driver) (s : State) : (tearDown d s).cfg = s.cfg := by
  rcases tearDown_cases d s with ⟨-, e⟩ | ⟨_, -, e⟩ <;> rw [e]

@[simp] theorem construct_cfg (p n : Nat) (buf : List Pixel) (s : State) : (construct p n buf s).cfg = s.cfg := by
  rcases construct_cases p n buf s with ⟨-, e⟩ | ⟨_, -, e⟩ <;> rw [e]

theorem execNew_cfg {p n : Nat} {s t : State} (h : execNew p n s = .next t) : t.cfg = s.cfg := by
  rcases execNew_cases h with ⟨-, rfl⟩ | ⟨-, rfl⟩ | ⟨-, -, rfl⟩ | ⟨-, -, -, -, rfl⟩ | ⟨-, -, -, -, -, rfl⟩ <;> simp

/-- No command writes the configuration (R7). -/
theorem exec_cfg {i : Instr} {s t : State} (h : exec i s = .next t) : t.cfg = s.cfg := by
  rcases exec_cases h with ⟨p, n, -, hn⟩ | ⟨-, -, rfl⟩ | ⟨-, -, -, rfl⟩ | ⟨-, -, rfl⟩ | ⟨-, d, -, body⟩
  · exact execNew_cfg hn
  · rfl
  · rfl
  · rfl
  · rcases body with ⟨x, r, g, b, -, rfl⟩ | ⟨r, g, b, -, rfl⟩ | ⟨-, rfl⟩ | ⟨-, -, rfl⟩ | ⟨-, -, rfl⟩
    · split <;> simp
    · rfl
    · rfl
    · exact showBuffer_cfg d s
    · exact tearDown_cfg d s

theorem resetDuring_cfg (w : CmdWord) (s : State) : (resetDuring w s).cfg = s.cfg := by
  obtain ⟨sh, dr, fi, e, -⟩ := resetDuring_eq w s
  rw [e]
  rfl

theorem unclaimByOther_cfg (p : Nat) (s : State) : (unclaimByOther p s).cfg = s.cfg := by
  unfold unclaimByOther
  split <;> rfl

/-- Settles O59, by the inputs a step can take. -/
theorem configurationIsConstant : Obligations.ConfigurationIsConstant := by
  unfold Obligations.ConfigurationIsConstant
  intro s t h
  rcases step_cases s with ⟨-, e⟩ | ⟨_, -, e⟩ | ⟨_, -, e⟩ | ⟨w, _, -, e | e⟩ | ⟨_, _, -, -, e⟩ | ⟨p, _, -, -, e⟩ |
    ⟨p, _, -, -, e⟩ | ⟨w, rest, -, -, ⟨_, -, e⟩ | ⟨i, -, e⟩⟩ <;> rw [e] at h
  · cases h; rfl
  · cases h; rfl
  · cases h; rfl
  · cases h; rfl
  · cases h; exact resetDuring_cfg w _
  · cases h; rfl
  · cases h; rfl
  · cases h; exact unclaimByOther_cfg p _
  · cases h; rfl
  · exact exec_cfg (s := accept rest s) h

/-! ### No answer depends on the colours -/

/-- R105, R110: 24 bits for each pixel. -/
@[simp] theorem wireBits_length (o : ChannelOrder) (seq : List Pixel) :
    (wireBits o seq).length = 24 * seq.length := by
  induction seq with
  | nil => rfl
  | cons p seq ih => simp [ih]; omega

/-- What the outside learns of a command is the same in both states: the answer, the phase, the line with its handle,
the allocator, and of each transmission its end and its length, but none of its bits (R4). -/
def SameAnswer (u t : State) : Prop :=
  u.status = t.status ∧ u.rsp = t.rsp ∧ u.phase = t.phase ∧ u.ownsLine = t.ownsLine ∧ u.line = t.line ∧
  u.claimed = t.claimed ∧ u.busy = t.busy ∧
  u.wire.map Transmission.complete = t.wire.map Transmission.complete ∧
  u.wire.map (fun x => x.bits.length) = t.wire.map (fun x => x.bits.length)

theorem SameAnswer.refl (s : State) : SameAnswer s s := ⟨rfl, rfl, rfl, rfl, rfl, rfl, rfl, rfl, rfl⟩

/-- The driver is no part of what the outside learns. -/
theorem sameAnswer_respond_setBuffer (st : Status) (d : Driver) (buf : List Pixel) (s : State) :
    SameAnswer (respond st (setBuffer d buf s)) (respond st s) := SameAnswer.refl (respond st s)

/-- SHOW's answer reads the buffer's length only. -/
theorem showBuffer_sameAnswer {d : Driver} {other : List Pixel} (hlen : other.length = d.buf.length) (s : State) :
    SameAnswer (showBuffer { d with buf := other } (setBuffer d other s)) (showBuffer d s) := by
  have hdraw : nextDraw (setBuffer d other s) = nextDraw s := rfl
  have recoloured := showBuffer_cases { d with buf := other } (setBuffer d other s)
  rcases showBuffer_cases d s with ⟨hn, e⟩ | ⟨k, hk, e⟩
  · obtain ⟨-, e'⟩ := recoloured.resolve_right (by simp [hdraw, hn])
    simp [SameAnswer, e, e', hlen]
  · obtain ⟨k', hk', e'⟩ := recoloured.resolve_left (by simp [hdraw, hk])
    obtain rfl : k = k' := by simpa [hdraw, hk] using hk'
    simp [SameAnswer, e, e', hlen]

/-- RELEASE zeroes the buffer first, so nothing of its colours is left (R161). -/
theorem tearDown_setBuffer {d : Driver} {other : List Pixel} (hlen : other.length = d.buf.length) (s : State) :
    tearDown { d with buf := other } (setBuffer d other s) = tearDown d s := by
  unfold tearDown
  simp only [pbClear_eq, hlen]
  rfl

/-- A command that runs in `Ready` answers alike on a recoloured buffer if its body does (R150). -/
theorem inReady_setBuffer {s t : State} {d : Driver} {other : List Pixel} {body body' : Driver → Result}
    (hd : s.driver = some d) (h : inReady s body = .next t)
    (hbody : body d = .next t → ∃ u, body' { d with buf := other } = .next u ∧ SameAnswer u t) :
    ∃ u, inReady (setBuffer d other s) body' = .next u ∧ SameAnswer u t := by
  rcases inReady_next h with ⟨hp, rfl⟩ | ⟨hp, rfl⟩ | ⟨hp, d', hd', hb⟩
  · exact ⟨_, inReady_uninitialized _ hp, sameAnswer_respond_setBuffer ..⟩
  · exact ⟨_, inReady_released _ hp, sameAnswer_respond_setBuffer ..⟩
  · obtain rfl : d = d' := Option.some.inj (hd.symm.trans hd')
    rw [inReady_ready (s := setBuffer d other s) _ hp rfl]
    exact hbody hb

theorem execNew_ready {p n : Nat} {s : State} (hp : s.phase = .ready) :
    execNew p n s = .next (respond .wrongPhase s) := by
  simp [execNew, hp]

theorem execNew_released {p n : Nat} {s : State} (hp : s.phase = .released) :
    execNew p n s = .next (respond .useAfterRelease s) := by
  simp [execNew, hp]

theorem claim_free {p : Nat} {s : State} (hc : pinClaimable s.cfg p = true) (hm : p ∉ s.claimed) :
    claim p s = some { s with claimed := insertPin p s.claimed, ownsLine := true } := by
  simp [claim, allocate, hc, hm]

theorem claim_unavailable {p : Nat} {s : State} (h : pinClaimable s.cfg p = false ∨ p ∈ s.claimed) :
    claim p s = none := by
  rcases h with h | h <;> simp [claim, allocate, h]

theorem execNew_unavailable {p n : Nat} {s : State} (hp : s.phase = .uninitialized)
    (h : pinClaimable s.cfg p = false ∨ p ∈ s.claimed) :
    execNew p n s = .next (respond .peripheralUnavailable s) := by
  simp [execNew, hp, claim_unavailable h]

/-- NEW of no pixels hands back the pin it has just claimed, and with it the line (R152, R153). -/
theorem execNew_zero {p : Nat} {s : State} (hp : s.phase = .uninitialized) (hc : pinClaimable s.cfg p = true)
    (hm : p ∉ s.claimed) :
    execNew p 0 s = .next (respond .invalidConfiguration { s with ownsLine := false, line := .z }) := by
  simp [execNew, hp, claim_free hc hm, pbNew, unclaim, removePin_insertPin p s.claimed hm]

theorem execNew_constructs {p n : Nat} {s : State} (hp : s.phase = .uninitialized)
    (hc : pinClaimable s.cfg p = true) (hm : p ∉ s.claimed) (h1 : 1 ≤ n) (hmax : n ≤ s.cfg.maxPixels.toNat) :
    execNew p n s = .next (construct p n (List.replicate n Pixel.black)
      { s with claimed := insertPin p s.claimed, ownsLine := true }) := by
  have hn : n ≠ 0 := by omega
  have hle : ¬ s.cfg.maxPixels.toNat < n := by omega
  simp [execNew, hp, claim_free hc hm, hle, pbNew_pos hn]

/-- NEW reads no driver, so none of its colours. -/
theorem execNew_setBuffer {p n : Nat} {s t : State} (d : Driver) (other : List Pixel) (h : execNew p n s = .next t) :
    ∃ u, execNew p n (setBuffer d other s) = .next u ∧ SameAnswer u t := by
  rcases execNew_cases h with ⟨hp, rfl⟩ | ⟨hp, rfl⟩ | ⟨hp, hno, rfl⟩ | ⟨hp, hc, hm, rfl, rfl⟩ |
    ⟨hp, hc, hm, h1, hmax, rfl⟩
  · exact ⟨_, execNew_ready hp, sameAnswer_respond_setBuffer ..⟩
  · exact ⟨_, execNew_released hp, sameAnswer_respond_setBuffer ..⟩
  · exact ⟨_, execNew_unavailable hp hno, sameAnswer_respond_setBuffer ..⟩
  · exact ⟨_, execNew_zero hp hc hm, SameAnswer.refl (respond _ { s with ownsLine := false, line := .z })⟩
  · exact ⟨_, execNew_constructs hp hc hm h1 hmax, SameAnswer.refl (construct p n _ _)⟩

/-- SET_PIXEL's answer reads the index and `num_pixels` only (R132). -/
theorem execSetPixel_setBuffer {x r g b : Int} {s t : State} {d : Driver} (other : List Pixel)
    (hd : s.driver = some d) (h : execSetPixel x r g b s = .next t) :
    ∃ u, execSetPixel x r g b (setBuffer d other s) = .next u ∧ SameAnswer u t := by
  refine inReady_setBuffer hd h fun hb => ?_
  simp only [pbSet] at hb ⊢
  cases hv : indexValid x d.numPixels with
  | false =>
    rw [hv] at hb
    cases hb
    exact ⟨_, rfl, sameAnswer_respond_setBuffer ..⟩
  | true =>
    rw [hv] at hb
    cases hb
    exact ⟨_, rfl, SameAnswer.refl (respond .ok s)⟩

/-- FILL_ALL answers `Ok` whatever the buffer holds (R155). -/
theorem execFillAll_setBuffer {r g b : Int} {s t : State} {d : Driver} (other : List Pixel)
    (hd : s.driver = some d) (h : execFillAll r g b s = .next t) :
    ∃ u, execFillAll r g b (setBuffer d other s) = .next u ∧ SameAnswer u t := by
  refine inReady_setBuffer hd h fun hb => ?_
  cases hb
  exact ⟨_, rfl, SameAnswer.refl (respond .ok s)⟩

/-- CLEAR is FILL_ALL of zeros (R156, R157). -/
theorem execClear_setBuffer {s t : State} {d : Driver} (other : List Pixel) (hd : s.driver = some d)
    (h : execClear s = .next t) : ∃ u, execClear (setBuffer d other s) = .next u ∧ SameAnswer u t :=
  execFillAll_setBuffer (r := 0) (g := 0) (b := 0) other hd h

/-- SHOW answers alike on a recoloured buffer. -/
theorem execShowStrip_setBuffer {s t : State} {d : Driver} {other : List Pixel} (hd : s.driver = some d)
    (hlen : other.length = d.buf.length) (h : execShowStrip s = .next t) :
    ∃ u, execShowStrip (setBuffer d other s) = .next u ∧ SameAnswer u t := by
  refine inReady_setBuffer hd h fun hb => ?_
  obtain ⟨ho, e⟩ := withLine_next hb
  cases e
  exact ⟨_, withLine_owned (s := setBuffer d other s) _ ho, showBuffer_sameAnswer hlen s⟩

/-- RELEASE answers alike on a recoloured buffer. -/
theorem execRelease_setBuffer {s t : State} {d : Driver} {other : List Pixel} (hd : s.driver = some d)
    (hlen : other.length = d.buf.length) (h : execRelease s = .next t) :
    ∃ u, execRelease (setBuffer d other s) = .next u ∧ SameAnswer u t := by
  unfold execRelease at h ⊢
  rw [setBuffer_phase]
  split at h
  · cases h
    exact ⟨_, rfl, sameAnswer_respond_setBuffer ..⟩
  · refine inReady_setBuffer hd h fun hb => ?_
    obtain ⟨ho, e⟩ := withLine_next hb
    cases e
    rw [withLine_owned (s := setBuffer d other s) _ ho, tearDown_setBuffer hlen]
    exact ⟨_, rfl, SameAnswer.refl _⟩

/-- Settles O58, command by command. -/
theorem answersDoNotDependOnColours : Obligations.AnswersDoNotDependOnColours := by
  unfold Obligations.AnswersDoNotDependOnColours
  intro i s t d other hd hlen h
  change ∃ u, exec i (setBuffer d other s) = .next u ∧ SameAnswer u t
  cases i with
  | new p n => exact execNew_setBuffer d other h
  | setPixel x r g b => exact execSetPixel_setBuffer other hd h
  | fillAll r g b => exact execFillAll_setBuffer other hd h
  | clear => exact execClear_setBuffer other hd h
  | showStrip => exact execShowStrip_setBuffer hd hlen h
  | release => exact execRelease_setBuffer hd hlen h

end Sys2Proof.Machine
end

section
/-! Proofs, spec/10_state.md: the invariant phase by phase and that every step keeps it, what a command writes of the
answer, the pin allocator's two sides, the strip, the released block, and the serializer's walk of a transmission. -/

namespace Sys2Proof.Machine

/-! ### The invariant, phase by phase -/

/-- A driven line is low, but for the level a fault may have left after the last transmission (R32, R188). -/
def LineRests (line : Level) (wire : List Transmission) : Prop :=
  line ≠ .z ∧ ∃ x, wire.getLast? = some x ∧ (x.complete = true → line = .low)

/-- Every complete transmission is one of `n` pixels (R110). -/
def WireFits (n : Nat) (wire : List Transmission) : Prop :=
  ∀ x ∈ wire, x.complete = true → x.bits.length = 24 * n

theorem lineRests_concat {line : Level} {wire : List Transmission} {x : Transmission} (hz : line ≠ .z)
    (hx : x.complete = true → line = .low) : LineRests line (wire ++ [x]) :=
  ⟨hz, x, by simp, hx⟩

theorem wireFits_concat {n : Nat} {wire : List Transmission} {x : Transmission} (hw : WireFits n wire)
    (hx : x.complete = true → x.bits.length = 24 * n) : WireFits n (wire ++ [x]) := by
  intro y hy
  rcases List.mem_append.1 hy with hy | hy
  · exact hw y hy
  · obtain rfl := List.mem_singleton.1 hy
    exact hx

/-- Before a driver exists no transmission is complete, so the wire fits a driver of any length (R153). -/
theorem wireFits_of_none_complete {wire : List Transmission} (h : ∀ x ∈ wire, x.complete = false) (n : Nat) :
    WireFits n wire := fun x hx hc => by simp [h x hx] at hc

/-- An implication from a Boolean as the disjunction the shapes compute. -/
theorem bool_imp_iff {b : Bool} {P : Prop} : (b = true → P) ↔ b = false ∨ P := by cases b <;> simp

theorem driverFits_iff (c : Config) (d : Driver) : driverFits c d = true ↔
    d.buf.length = d.numPixels ∧ 1 ≤ d.numPixels ∧ d.numPixels ≤ c.maxPixels.toNat ∧ d.pin < 65536 := by
  simp [driverFits, and_assoc]

/-- Of the buffer the fit reads the length only. -/
theorem driverFits_setBuf {c : Config} {d : Driver} {buf : List Pixel} (hlen : buf.length = d.buf.length)
    (h : driverFits c d = true) : driverFits c { d with buf := buf } = true := by
  simpa [driverFits, hlen] using h

theorem allBlack_replicate (n : Nat) : allBlack (List.replicate n Pixel.black) = true := by
  simp [allBlack]

/-- What exists before a driver does (R40, R41, R153). -/
theorem shape_uninitialized {s : State} (hp : s.phase = .uninitialized) :
    s.Shape ↔ ClaimsCanonical s.claimed ∧ s.driver = none ∧ s.ownsLine = false ∧ s.line = .z ∧
      ∀ x ∈ s.wire, x.complete = false := by
  refine and_congr_right fun _ => ?_
  cases hd : s.driver <;> cases ho : s.ownsLine <;> simp [phaseShape, lineShape, wireShape, hp, hd, ho]

/-- What exists while the driver is `Ready` (R21, R28, R136). -/
theorem shape_ready {s : State} (hp : s.phase = .ready) :
    s.Shape ↔ ClaimsCanonical s.claimed ∧ ∃ d, s.driver = some d ∧ driverFits s.cfg d = true ∧ d.pin ∈ s.claimed ∧
      s.ownsLine = true ∧ LineRests s.line s.wire ∧ WireFits d.numPixels s.wire := by
  refine and_congr_right fun _ => ?_
  cases hd : s.driver with
  | none => simp [phaseShape, driverHas, hp, hd]
  | some d =>
    cases ho : s.ownsLine with
    | false => simp [phaseShape, hp, ho]
    | true =>
      cases hw : s.wire.getLast? <;>
        simp [phaseShape, lineShape, wireShape, driverHas, hp, hd, ho, hw, LineRests, WireFits, and_assoc,
          bool_imp_iff]

/-- What is left of a released driver (R41, R161). -/
theorem shape_released {s : State} (hp : s.phase = .released) :
    s.Shape ↔ ClaimsCanonical s.claimed ∧ ∃ d, s.driver = some d ∧ driverFits s.cfg d = true ∧
      allBlack d.buf = true ∧ s.ownsLine = false ∧ s.line = .z ∧ WireFits d.numPixels s.wire := by
  refine and_congr_right fun _ => ?_
  cases hd : s.driver with
  | none => simp [phaseShape, driverHas, hp, hd]
  | some d =>
    cases ho : s.ownsLine <;>
      simp [phaseShape, lineShape, wireShape, driverHas, hp, hd, ho, WireFits, and_assoc, bool_imp_iff]

/-- The answer is no part of the shape, nor are the inputs. -/
theorem shape_respond {st : Status} {s : State} (hs : s.Shape) : (respond st s).Shape := hs

/-- The allocator's set is in its canonical form in every phase. -/
theorem State.Shape.canonical {s : State} (hs : s.Shape) : ClaimsCanonical s.claimed := hs.1

/-- The pin the block holds is claimed (R28, R36). -/
theorem ownPin_mem_claimed {s : State} {p : Nat} (hs : s.Shape) (ho : ownPin s = some p) : p ∈ s.claimed := by
  cases hp : s.phase with
  | uninitialized =>
    obtain ⟨-, -, hl, -⟩ := (shape_uninitialized hp).1 hs
    simp [ownPin, hl] at ho
  | ready =>
    obtain ⟨-, d, hd, -, hmem, hl, -⟩ := (shape_ready hp).1 hs
    simp [ownPin, hl, hd] at ho
    exact ho ▸ hmem
  | released =>
    obtain ⟨-, d, -, -, -, hl, -⟩ := (shape_released hp).1 hs
    simp [ownPin, hl] at ho

/-- The other claimants' part of the allocator's set is free, as long as the block's own pin stays in it. -/
theorem shape_setClaimed {s : State} {l : List Nat} (hs : s.Shape) (hl : ClaimsCanonical l)
    (hown : ∀ p, ownPin s = some p → p ∈ l) : State.Shape { s with claimed := l } := by
  cases hp : s.phase with
  | uninitialized =>
    obtain ⟨-, rest⟩ := (shape_uninitialized hp).1 hs
    exact (shape_uninitialized rfl).2 ⟨hl, rest⟩
  | ready =>
    obtain ⟨-, d, hd, hfit, -, ho, rest⟩ := (shape_ready hp).1 hs
    exact (shape_ready rfl).2
      ⟨hl, d, hd, hfit, hown _ (by simp [ownPin, ho, hd]), ho, rest⟩
  | released =>
    obtain ⟨-, rest⟩ := (shape_released hp).1 hs
    exact (shape_released rfl).2 ⟨hl, rest⟩

/-! ### The commands keep the shape -/

theorem setBuffer_shape {s : State} {d : Driver} {buf : List Pixel} (hs : s.Shape) (hp : s.phase = .ready)
    (hd : s.driver = some d) (hlen : buf.length = d.buf.length) : (setBuffer d buf s).Shape := by
  obtain ⟨hc, d', hd', hfit, rest⟩ := (shape_ready hp).1 hs
  obtain rfl : d = d' := Option.some.inj (hd.symm.trans hd')
  exact (shape_ready (s := setBuffer d buf s) hp).2 ⟨hc, _, rfl, driverFits_setBuf hlen hfit, rest⟩

theorem showBuffer_shape {s : State} {d : Driver} (hs : s.Shape) (hp : s.phase = .ready) (hd : s.driver = some d) :
    (showBuffer d s).Shape := by
  obtain ⟨hc, d', hd', hfit, hpin, ho, -, hw⟩ := (shape_ready hp).1 hs
  obtain rfl : d = d' := Option.some.inj (hd.symm.trans hd')
  obtain ⟨hlen, -⟩ := (driverFits_iff _ d).1 hfit
  rcases showBuffer_cases d s with ⟨-, e⟩ | ⟨k, -, e⟩ <;> rw [e] <;>
    refine (shape_ready (by exact hp)).2
      ⟨hc, d, hd, hfit, hpin, ho, lineRests_concat ?_ ?_, wireFits_concat hw ?_⟩
  · simp
  · simp
  · simp [hlen]
  · exact levelOf_ne_z _
  · simp
  · simp

theorem tearDown_shape {s : State} {d : Driver} (hs : s.Shape) (hp : s.phase = .ready) (hd : s.driver = some d) :
    (tearDown d s).Shape := by
  obtain ⟨hc, d', hd', hfit, -, -, -, hw⟩ := (shape_ready hp).1 hs
  obtain rfl : d = d' := Option.some.inj (hd.symm.trans hd')
  obtain ⟨hlen, -⟩ := (driverFits_iff _ d).1 hfit
  rcases tearDown_cases d s with ⟨-, e⟩ | ⟨k, -, e⟩ <;> rw [e] <;>
    refine (shape_released rfl).2 ⟨removePin_canonical hc, _, rfl, driverFits_setBuf (by simp) hfit,
      allBlack_replicate _, rfl, rfl, wireFits_concat hw ?_⟩
  · simp [hlen]
  · simp

/-- NEW's construction makes a whole driver, or none (R152, R153). -/
theorem construct_shape {p n : Nat} {s : State} (hs : s.Shape) (hp : s.phase = .uninitialized)
    (hclaim : pinClaimable s.cfg p = true) (h1 : 1 ≤ n) (hmax : n ≤ s.cfg.maxPixels.toNat) :
    (construct p n (List.replicate n Pixel.black)
      { s with claimed := insertPin p s.claimed, ownsLine := true }).Shape := by
  obtain ⟨hc, -, -, -, hw⟩ := (shape_uninitialized hp).1 hs
  have hpin := pinClaimable_lt hclaim
  have hc' := insertPin_canonical hpin hc
  rcases construct_cases p n (List.replicate n Pixel.black)
    { s with claimed := insertPin p s.claimed, ownsLine := true } with ⟨-, e⟩ | ⟨k, -, e⟩ <;> rw [e]
  · exact (shape_ready rfl).2 ⟨hc', _, rfl, (driverFits_iff _ _).2 ⟨by simp, h1, hmax, hpin⟩, by simp, rfl,
      lineRests_concat (by simp) (by simp), wireFits_concat (wireFits_of_none_complete hw n) (by simp)⟩
  · refine (shape_uninitialized (by exact hp)).2 ⟨removePin_canonical hc', rfl, rfl, rfl, fun x hx => ?_⟩
    rcases List.mem_append.1 hx with hx | hx
    · exact hw x hx
    · simp [List.mem_singleton.1 hx]

theorem execNew_shape {p n : Nat} {s t : State} (hs : s.Shape) (h : execNew p n s = .next t) : t.Shape := by
  rcases execNew_cases h with ⟨-, rfl⟩ | ⟨-, rfl⟩ | ⟨-, -, rfl⟩ | ⟨hp, -, -, -, rfl⟩ | ⟨hp, hc, -, h1, hmax, rfl⟩
  · exact shape_respond hs
  · exact shape_respond hs
  · exact shape_respond hs
  · obtain ⟨hc, hd, -, -, hw⟩ := (shape_uninitialized hp).1 hs
    exact shape_respond ((shape_uninitialized (by exact hp)).2 ⟨hc, hd, rfl, rfl, hw⟩)
  · exact construct_shape hs hp hc h1 hmax

/-- Every command that answers keeps the shape of the state. -/
theorem exec_shape {i : Instr} {s t : State} (hs : s.Shape) (h : exec i s = .next t) : t.Shape := by
  rcases exec_cases h with ⟨p, n, -, hn⟩ | ⟨-, -, rfl⟩ | ⟨-, -, -, rfl⟩ | ⟨-, -, rfl⟩ | ⟨hp, d, hd, body⟩
  · exact execNew_shape hs hn
  · exact shape_respond hs
  · exact shape_respond hs
  · exact shape_respond hs
  · rcases body with ⟨x, r, g, b, -, rfl⟩ | ⟨r, g, b, -, rfl⟩ | ⟨-, rfl⟩ | ⟨-, -, rfl⟩ | ⟨-, -, rfl⟩
    · split
      · exact shape_respond (setBuffer_shape hs hp hd List.length_set)
      · exact shape_respond hs
    · exact shape_respond (setBuffer_shape hs hp hd (pbFill_length r g b d.buf))
    · exact shape_respond (setBuffer_shape hs hp hd List.length_replicate)
    · exact showBuffer_shape hs hp hd
    · exact tearDown_shape hs hp hd

/-! ### Reset and the other claimants keep the shape -/

theorem withoutOwnClaim_canonical {s : State} (h : ClaimsCanonical s.claimed) :
    ClaimsCanonical (withoutOwnClaim s) := by
  unfold withoutOwnClaim
  split
  · exact removePin_canonical h
  · exact h

/-- A reset needs nothing of the state it ends but the allocator's own form (R250). -/
theorem resetBlock_shape {s : State} (h : ClaimsCanonical s.claimed) : (resetBlock s).Shape :=
  (shape_uninitialized rfl).2 ⟨withoutOwnClaim_canonical h, rfl, rfl, rfl, by simp⟩

/-- A reset inside a command leaves the block that a reset between commands leaves (R252). -/
theorem resetDuring_inv {w : CmdWord} {s : State} (h : ClaimsCanonical s.claimed) : (resetDuring w s).Inv := by
  obtain ⟨sh, dr, fi, e, -⟩ := resetDuring_eq w s
  rw [e]
  exact ⟨rfl, resetBlock_shape h⟩

theorem mem_claimByOther_of_mem {p q : Nat} {s : State} (h : p ∈ s.claimed) : p ∈ (claimByOther q s).claimed := by
  unfold claimByOther
  rcases allocate_cases s.cfg q s.claimed with ⟨-, -, e⟩ | ⟨-, e⟩ <;> simp [e, h]

/-- No other claimant can hand back the block's pin (R36). -/
theorem ownPin_mem_unclaimByOther {p q : Nat} {s : State} (ho : ownPin s = some p) (h : p ∈ s.claimed) :
    p ∈ (unclaimByOther q s).claimed := by
  unfold unclaimByOther
  split
  · exact h
  · rename_i hq
    have hne : p ≠ q := by rintro rfl; exact hq ho
    exact (mem_removePin q p s.claimed).2 ⟨h, hne⟩

theorem claimByOther_shape {q : Nat} {s : State} (hs : s.Shape) : (claimByOther q s).Shape :=
  shape_setClaimed hs (allocate_canonical (hs.canonical))
    fun _ ho => mem_claimByOther_of_mem (ownPin_mem_claimed hs ho)

/-- What another claimant does to the allocator's set is all it does. -/
theorem unclaimByOther_eq (q : Nat) (s : State) :
    unclaimByOther q s = { s with claimed := (unclaimByOther q s).claimed } := by
  unfold unclaimByOther
  split <;> rfl

theorem unclaimByOther_canonical {q : Nat} {s : State} (h : ClaimsCanonical s.claimed) :
    ClaimsCanonical (unclaimByOther q s).claimed := by
  unfold unclaimByOther
  split
  · exact h
  · exact removePin_canonical h

theorem unclaimByOther_shape {q : Nat} {s : State} (hs : s.Shape) : (unclaimByOther q s).Shape := by
  rw [unclaimByOther_eq]
  exact shape_setClaimed hs (unclaimByOther_canonical (hs.canonical))
    fun _ ho => ownPin_mem_unclaimByOther ho (ownPin_mem_claimed hs ho)

/-! ### Every command writes its answer -/

theorem construct_responds (p n : Nat) (buf : List Pixel) (s : State) :
    ∃ st u, construct p n buf s = respond st u := by
  rcases construct_cases p n buf s with ⟨-, e⟩ | ⟨k, -, e⟩
  · exact ⟨.ok, construct p n buf s, by rw [e]; rfl⟩
  · exact ⟨.transmitFault, construct p n buf s, by rw [e]; rfl⟩

/-- However a command ends, it ends with a response (R29, R150). -/
theorem exec_responds {i : Instr} {s t : State} (h : exec i s = .next t) : ∃ st u, t = respond st u := by
  rcases exec_cases h with ⟨p, n, -, hn⟩ | ⟨-, -, rfl⟩ | ⟨-, -, -, rfl⟩ | ⟨-, -, rfl⟩ | ⟨-, d, -, body⟩
  · rcases execNew_cases hn with ⟨-, rfl⟩ | ⟨-, rfl⟩ | ⟨-, -, rfl⟩ | ⟨-, -, -, -, rfl⟩ | ⟨-, -, -, -, -, rfl⟩
    · exact ⟨_, _, rfl⟩
    · exact ⟨_, _, rfl⟩
    · exact ⟨_, _, rfl⟩
    · exact ⟨_, _, rfl⟩
    · exact construct_responds ..
  · exact ⟨_, _, rfl⟩
  · exact ⟨_, _, rfl⟩
  · exact ⟨_, _, rfl⟩
  · rcases body with ⟨x, r, g, b, -, rfl⟩ | ⟨r, g, b, -, rfl⟩ | ⟨-, rfl⟩ | ⟨-, -, rfl⟩ | ⟨-, -, rfl⟩
    · split
      · exact ⟨_, _, rfl⟩
      · exact ⟨_, _, rfl⟩
    · exact ⟨_, _, rfl⟩
    · exact ⟨_, _, rfl⟩
    · exact ⟨_, _, rfl⟩
    · exact ⟨_, _, rfl⟩

theorem exec_busy {i : Instr} {s t : State} (h : exec i s = .next t) : t.busy = false := by
  obtain ⟨st, u, rfl⟩ := exec_responds h
  rfl

theorem exec_rsp {i : Instr} {s t : State} (h : exec i s = .next t) : t.rsp = some t.status := by
  obtain ⟨st, u, rfl⟩ := exec_responds h
  rfl

/-! ### The invariant -/

/-- Settles O53, by the inputs a step can take: a command keeps the shape, a reset makes it anew, and the other
claimants never take the block's pin. -/
theorem stepKeepsTheInvariant : Obligations.StepKeepsTheInvariant := by
  unfold Obligations.StepKeepsTheInvariant
  rintro s t ⟨hb, hs⟩ h
  have hc := hs.canonical
  rcases step_cases s with ⟨-, e⟩ | ⟨_, -, e⟩ | ⟨_, -, e⟩ | ⟨w, _, -, e | e⟩ | ⟨_, _, -, -, e⟩ | ⟨p, _, -, -, e⟩ |
    ⟨p, _, -, -, e⟩ | ⟨w, rest, -, -, ⟨_, -, e⟩ | ⟨i, -, e⟩⟩ <;> rw [e] at h
  · cases h; exact ⟨hb, hs⟩
  · cases h; exact ⟨rfl, resetBlock_shape hc⟩
  · cases h; exact ⟨rfl, resetBlock_shape hc⟩
  · cases h; exact ⟨rfl, resetBlock_shape hc⟩
  · cases h; exact resetDuring_inv hc
  · cases h; exact ⟨hb, hs⟩
  · cases h; exact ⟨hb, claimByOther_shape hs⟩
  · cases h; exact ⟨(congrArg State.busy (unclaimByOther_eq p _)).trans hb, unclaimByOther_shape hs⟩
  · cases h; exact ⟨rfl, shape_respond hs⟩
  · exact ⟨exec_busy h, exec_shape (s := accept rest s) hs h⟩

/-- Settles O54: before a driver exists the shape asks for the values of R40. -/
theorem resetMeetsTheInvariant : Obligations.ResetMeetsTheInvariant := by
  unfold Obligations.ResetMeetsTheInvariant
  exact ⟨rfl, (shape_uninitialized rfl).2 ⟨⟨List.Pairwise.nil, by simp [State.reset]⟩, rfl, rfl, rfl,
    by simp [State.reset]⟩⟩

/-! ### The answer -/

theorem step_command_busy {s : State} {w : CmdWord} {rest : List Input} (hb : s.busy = true)
    (hi : s.inputs = .command w :: rest) : step s = .next (idle s) := by
  simp [step, nextAction, hi, hb]

theorem step_no_input {s : State} (hi : s.inputs = []) : step s = .next (idle s) := by
  simp [step, nextAction, hi]

/-- Settles O10: without a word to take the step is `idle`, and every command ends with a response. -/
theorem busyLastsFromAcceptanceToResponse : Obligations.BusyLastsFromAcceptanceToResponse := by
  unfold Obligations.BusyLastsFromAcceptanceToResponse
  exact ⟨fun _ _ _ hb hi => step_command_busy hb hi, fun _ hi => step_no_input hi, fun _ _ _ h => exec_busy h⟩

/-- The state with another status in the register. -/
def setStatus (st : Status) (s : State) : State := { s with status := st }

/-- A response overwrites the status, so it forgets the one before (R29). -/
theorem respond_setStatus (st answer : Status) (s : State) : respond answer (setStatus st s) = respond answer s := rfl

/-- A commit carries the status along unread. -/
theorem commit_setStatus (st : Status) (seq : List Pixel) (s : State) :
    commit seq (setStatus st s) = ((commit seq s).1, setStatus st (commit seq s).2) := by
  have hdraw : nextDraw (setStatus st s) = nextDraw s := rfl
  rcases commit_cases seq s with ⟨hn, e⟩ | ⟨k, hk, e⟩
  · obtain ⟨-, e'⟩ := (commit_cases seq (setStatus st s)).resolve_right (by simp [hdraw, hn])
    rw [e, e']; rfl
  · obtain ⟨k', hk', e'⟩ := (commit_cases seq (setStatus st s)).resolve_left (by simp [hdraw, hk])
    obtain rfl : k = k' := by simpa [hdraw, hk] using hk'
    rw [e, e']; rfl

theorem showBuffer_setStatus (st : Status) (d : Driver) (s : State) :
    showBuffer d (setStatus st s) = showBuffer d s := by
  simp only [showBuffer, commit_setStatus]
  rfl

theorem tearDown_setStatus (st : Status) (d : Driver) (s : State) : tearDown d (setStatus st s) = tearDown d s := by
  have h := commit_setStatus st (pbAsSequence (pbClear d.buf)) { s with driver := some { d with buf := pbClear d.buf } }
  simp only [setStatus] at h
  simp only [tearDown, setStatus, h]
  rfl

theorem construct_setStatus (st : Status) (p n : Nat) (buf : List Pixel) (s : State) :
    construct p n buf (setStatus st s) = construct p n buf s := by
  have h := commit_setStatus st (pbAsSequence buf) { s with driver := some { pin := p, numPixels := n, buf := buf } }
  simp only [setStatus] at h
  simp only [construct, setStatus, h]
  split <;> rfl

/-- The dispatch reads the phase and the driver only (R150). -/
theorem inReady_setStatus {st : Status} {s : State} {body body' : Driver → Result} (h : ∀ d, body d = body' d) :
    inReady (setStatus st s) body = inReady s body' := by
  obtain rfl : body = body' := funext h
  rfl

theorem execNew_setStatus (st : Status) (p n : Nat) (s : State) : execNew p n (setStatus st s) = execNew p n s := by
  cases hp : s.phase with
  | ready => rw [execNew_ready hp, execNew_ready (s := setStatus st s) hp, respond_setStatus]
  | released => rw [execNew_released hp, execNew_released (s := setStatus st s) hp, respond_setStatus]
  | uninitialized =>
    have hp' : (setStatus st s).phase = .uninitialized := hp
    rcases claim_cases p s with ⟨hc, hm, e⟩ | ⟨h, -⟩
    · have e' : claim p (setStatus st s) =
          some (setStatus st { s with claimed := insertPin p s.claimed, ownsLine := true }) :=
        claim_free (s := setStatus st s) hc hm
      simp only [execNew, hp, hp', e, e', construct_setStatus]
      rfl
    · rw [execNew_unavailable hp h, execNew_unavailable (s := setStatus st s) hp h, respond_setStatus]

/-- No command reads the status (R29). -/
theorem exec_setStatus (i : Instr) (st : Status) (s : State) : exec i (setStatus st s) = exec i s := by
  cases i with
  | new p n => exact execNew_setStatus st p n s
  | setPixel x r g b => exact inReady_setStatus fun _ => rfl
  | fillAll r g b => exact inReady_setStatus fun _ => rfl
  | clear => exact inReady_setStatus fun _ => rfl
  | showStrip => exact inReady_setStatus fun d => congrArg (fun u => withLine s (.next u)) (showBuffer_setStatus st d s)
  | release =>
    have body : inReady (setStatus st s) (fun d => withLine (setStatus st s) (.next (tearDown d (setStatus st s)))) =
        inReady s (fun d => withLine s (.next (tearDown d s))) :=
      inReady_setStatus fun d => congrArg (fun u => withLine s (.next u)) (tearDown_setStatus st d s)
    change execRelease (setStatus st s) = execRelease s
    cases hp : s.phase <;> simp only [execRelease, body] <;> rfl

theorem statusCode_le_seven (st : Status) : (statusCode st).toNat ≤ 7 := by
  cases st <;> decide

/-- Settles O11: every command ends with a response, and none reads the status it overwrites. -/
theorem statusIsWrittenAndNeverRead : Obligations.StatusIsWrittenAndNeverRead := by
  unfold Obligations.StatusIsWrittenAndNeverRead
  exact ⟨fun _ _ _ h => exec_rsp h, statusCode_le_seven, fun i s st => exec_setStatus i st s⟩

/-! ### The driver's registers -/

/-- The registers `pin` and `num_pixels` and the buffer's length, which only NEW sets (R26, R27). -/
def SameRegisters (t s : State) : Prop :=
  ∀ d, s.driver = some d → ∃ d', t.driver = some d' ∧ d'.pin = d.pin ∧ d'.numPixels = d.numPixels ∧
    d'.buf.length = d.buf.length

theorem SameRegisters.refl (s : State) : SameRegisters s s := fun d hd => ⟨d, hd, rfl, rfl, rfl⟩

theorem respond_sameRegisters (st : Status) (s : State) : SameRegisters (respond st s) s := SameRegisters.refl s

/-- A state whose driver differs in the buffer's contents only. -/
theorem sameRegisters_of_driver {s t : State} {d : Driver} {buf : List Pixel} (hd : s.driver = some d)
    (ht : t.driver = some { d with buf := buf }) (hlen : buf.length = d.buf.length) : SameRegisters t s := by
  intro d' hd'
  obtain rfl : d = d' := Option.some.inj (hd.symm.trans hd')
  exact ⟨_, ht, rfl, rfl, hlen⟩

@[simp] theorem showBuffer_driver (d : Driver) (s : State) : (showBuffer d s).driver = s.driver := by
  rcases showBuffer_cases d s with ⟨-, e⟩ | ⟨_, -, e⟩ <;> rw [e]

@[simp] theorem tearDown_driver (d : Driver) (s : State) :
    (tearDown d s).driver = some { d with buf := List.replicate d.buf.length Pixel.black } := by
  rcases tearDown_cases d s with ⟨-, e⟩ | ⟨_, -, e⟩ <;> rw [e]

/-- NEW makes a driver only where the shape rules out that there is one. -/
theorem execNew_sameRegisters {p n : Nat} {s t : State} (hs : s.Shape) (h : execNew p n s = .next t) :
    SameRegisters t s := by
  cases hp : s.phase with
  | uninitialized =>
    obtain ⟨-, hn, -⟩ := (shape_uninitialized hp).1 hs
    exact fun d hd => by simp [hn] at hd
  | ready =>
    cases (execNew_ready hp).symm.trans h
    exact respond_sameRegisters _ s
  | released =>
    cases (execNew_released hp).symm.trans h
    exact respond_sameRegisters _ s

/-- No command rewrites the registers of a driver that exists (R26, R27). -/
theorem exec_sameRegisters {i : Instr} {s t : State} (hs : s.Shape) (h : exec i s = .next t) : SameRegisters t s := by
  rcases exec_cases h with ⟨p, n, -, hn⟩ | ⟨-, -, rfl⟩ | ⟨-, -, -, rfl⟩ | ⟨-, -, rfl⟩ | ⟨-, d, hd, body⟩
  · exact execNew_sameRegisters hs hn
  · exact respond_sameRegisters _ s
  · exact respond_sameRegisters _ s
  · exact respond_sameRegisters _ s
  · rcases body with ⟨x, r, g, b, -, rfl⟩ | ⟨r, g, b, -, rfl⟩ | ⟨-, rfl⟩ | ⟨-, -, rfl⟩ | ⟨-, -, rfl⟩
    · split
      · exact sameRegisters_of_driver hd rfl List.length_set
      · exact respond_sameRegisters _ s
    · exact sameRegisters_of_driver hd rfl (pbFill_length r g b d.buf)
    · exact sameRegisters_of_driver hd rfl List.length_replicate
    · exact sameRegisters_of_driver hd ((showBuffer_driver d s).trans hd) rfl
    · exact sameRegisters_of_driver hd (tearDown_driver d s) List.length_replicate

/-- Settles O27. -/
theorem bufferLengthIsImmutable : Obligations.BufferLengthIsImmutable := by
  unfold Obligations.BufferLengthIsImmutable
  exact fun i s t d hs hd h => exec_sameRegisters hs h d hd

/-! ### The allocator and the strip -/

/-- Settles O46: a claim answers as the pin is claimable and free, and the pin it has taken is free no more. -/
theorem claimIsAtomicAndExclusive : Obligations.ClaimIsAtomicAndExclusive := by
  unfold Obligations.ClaimIsAtomicAndExclusive
  refine fun p s => ⟨fun ⟨hc, hm⟩ => ?_, fun h => claim_unavailable ?_⟩
  · exact ⟨_, claim_free hc hm, fun q => mem_insertPin p q s.claimed, rfl, claim_unavailable (.inr (by simp))⟩
  · by_cases hm : p ∈ s.claimed
    · exact .inr hm
    · exact .inl (by simpa [hm] using h)

theorem mem_claimByOther_of_ne {x q : Nat} {s : State} (hx : x ≠ q) :
    x ∈ (claimByOther q s).claimed ↔ x ∈ s.claimed := by
  unfold claimByOther
  rcases allocate_cases s.cfg q s.claimed with ⟨-, -, e⟩ | ⟨-, e⟩ <;> simp [e, hx]

theorem mem_unclaimByOther_of_ne {x q : Nat} {s : State} (hx : x ≠ q) :
    x ∈ (unclaimByOther q s).claimed ↔ x ∈ s.claimed := by
  unfold unclaimByOther
  split
  · rfl
  · simp [hx]

theorem step_otherClaim {s : State} {q : Nat} {rest : List Input} (hb : s.busy = false)
    (hi : s.inputs = .otherClaim q :: rest) : step s = .next (claimByOther q (idle { s with inputs := rest })) := by
  simp [step, nextAction, hi, hb]

theorem step_otherUnclaim {s : State} {q : Nat} {rest : List Input} (hb : s.busy = false)
    (hi : s.inputs = .otherUnclaim q :: rest) : step s = .next (unclaimByOther q (idle { s with inputs := rest })) := by
  simp [step, nextAction, hi, hb]

/-- Settles O48: the other claimants write the allocator's set only, and the block's pin stays in it. -/
theorem otherClaimantsCannotTakeThePin : Obligations.OtherClaimantsCannotTakeThePin := by
  unfold Obligations.OtherClaimantsCannotTakeThePin
  rintro s t p q rest ⟨hb, hs⟩ ho (hi | hi) h
  · cases (step_otherClaim hb hi).symm.trans h
    exact ⟨mem_claimByOther_of_mem (ownPin_mem_claimed hs ho), rfl, fun x hx => mem_claimByOther_of_ne hx⟩
  · cases (step_otherUnclaim hb hi).symm.trans h
    exact ⟨ownPin_mem_unclaimByOther (s := idle { s with inputs := rest }) ho (ownPin_mem_claimed hs ho),
      unclaimByOther_eq q _, fun x hx => mem_unclaimByOther_of_ne hx⟩

/-- Each LED after a complete transmission shows its pixel, if the data reached it (R38). -/
theorem latchComplete_get {seq shown : List Pixel} {j : Nat} (hj : j < shown.length) :
    (latchComplete seq shown)[j]? = if j < seq.length then seq[j]? else shown[j]? := by
  split
  · simp [latchComplete, *]
  · simp [latchComplete, *]

/-- Settles O49: Transmit latches the sequence as its draw says. -/
theorem stripShowsWhatWasSent : Obligations.StripShowsWhatWasSent := by
  unfold Obligations.StripShowsWhatWasSent
  refine ⟨fun seq s j hn hj => ?_, fun seq s j k hk hj => ?_⟩
  · obtain ⟨-, e⟩ := (transmit_cases seq s).resolve_right (by simp [hn])
    rw [e]
    exact latchComplete_get hj
  · obtain ⟨k', -, e⟩ := (transmit_cases seq s).resolve_left (by simp [hk])
    rw [e]
    exact latchTruncated_get s.freeIndex seq s.shown j

/-! ### The released block -/

/-- Nothing of the driver changes, nor of the line, the wire and the strip it drives. -/
def SameDriver (t s : State) : Prop :=
  t.phase = s.phase ∧ t.driver = s.driver ∧ t.ownsLine = s.ownsLine ∧ t.line = s.line ∧ t.wire = s.wire ∧
    t.shown = s.shown

theorem SameDriver.refl (s : State) : SameDriver s s := ⟨rfl, rfl, rfl, rfl, rfl, rfl⟩

theorem SameDriver.trans {u t s : State} : SameDriver u t → SameDriver t s → SameDriver u s := by
  rintro ⟨hp, hd, ho, hl, hw, hc⟩ ⟨hp', hd', ho', hl', hw', hc'⟩
  exact ⟨hp.trans hp', hd.trans hd', ho.trans ho', hl.trans hl', hw.trans hw', hc.trans hc'⟩

/-- On a released driver every command answers and does nothing (R162, R214). -/
theorem exec_released {i : Instr} {s t : State} (hp : s.phase = .released) (h : exec i s = .next t) :
    ∃ st, t = respond st s := by
  rcases exec_cases h with ⟨p, n, -, hn⟩ | ⟨hp', -⟩ | ⟨-, -, -, e⟩ | ⟨-, -, e⟩ | ⟨hp', -⟩
  · cases (execNew_released hp).symm.trans hn
    exact ⟨_, rfl⟩
  · simp [hp] at hp'
  · exact ⟨_, e⟩
  · exact ⟨_, e⟩
  · simp [hp] at hp'

/-- Of the inputs of a released block only a reset in one of its forms changes anything of the driver (R163). -/
theorem step_released {s t : State} (hp : s.phase = .released) (hr : noReset s.inputs) (h : step s = .next t) :
    SameDriver t s ∧ noReset t.inputs := by
  have tail {x : Input} {rest : List Input} (hi : s.inputs = x :: rest) : noReset rest :=
    fun y hy => hr y (by simp [hi, hy])
  rcases step_cases s with ⟨-, e⟩ | ⟨_, hi, -⟩ | ⟨_, hi, -⟩ | ⟨w, _, hi, -⟩ | ⟨_, _, -, -, e⟩ | ⟨p, _, hi, -, e⟩ |
    ⟨p, _, hi, -, e⟩ | ⟨w, rest, hi, -, ⟨_, -, e⟩ | ⟨i, -, e⟩⟩
  · cases e.symm.trans h; exact ⟨SameDriver.refl s, hr⟩
  · exact absurd rfl (hr .reset (by simp [hi])).1
  · exact absurd rfl (hr .powerCycle (by simp [hi])).2.1
  · exact absurd rfl ((hr (.resetDuring w) (by simp [hi])).2.2 w)
  · cases e.symm.trans h; exact ⟨SameDriver.refl s, hr⟩
  · cases e.symm.trans h; exact ⟨SameDriver.refl s, tail hi⟩
  · cases e.symm.trans h
    rw [unclaimByOther_eq]
    exact ⟨SameDriver.refl s, tail hi⟩
  · cases e.symm.trans h; exact ⟨SameDriver.refl s, tail hi⟩
  · obtain ⟨st, rfl⟩ := exec_released (s := accept rest s) hp (e.symm.trans h)
    exact ⟨SameDriver.refl s, tail hi⟩

/-- A run that comes to its end took its first step and went on from there. -/
theorem core_run_succ_next {n : Nat} {s t : State} (h : core.run (n + 1) s = .next t) :
    ∃ u, step s = .next u ∧ core.run n u = .next t := by
  simp only [Host.Core.run] at h
  split at h
  · exact ⟨_, ‹_›, h⟩
  · cases h
  · cases h

theorem run_released {n : Nat} {s t : State} (hp : s.phase = .released) (hr : noReset s.inputs)
    (h : core.run n s = .next t) : SameDriver t s := by
  induction n generalizing s with
  | zero => cases h; exact SameDriver.refl _
  | succ n ih =>
    obtain ⟨u, hstep, hrun⟩ := core_run_succ_next h
    obtain ⟨hsame, hr'⟩ := step_released hp hr hstep
    exact (ih (hsame.1.trans hp) hr' hrun).trans hsame

/-- Settles O57, by induction on the length of the run. -/
theorem releasedIsTerminal : Obligations.ReleasedIsTerminal := by
  unfold Obligations.ReleasedIsTerminal
  intro n s t hp hr h
  obtain ⟨hphase, rest⟩ := run_released hp hr h
  exact ⟨hphase.trans hp, rest⟩

/-- Settles O50: each value of R40 stands in the reset state. -/
theorem resetValues : Obligations.ResetValues := by
  unfold Obligations.ResetValues
  exact ⟨rfl, rfl, rfl, rfl, rfl, rfl, rfl, rfl, rfl, rfl, rfl⟩

/-! ### The serializer's walk -/

/-- The cursor, where it is, passes the listed places one after the other and then ceases to exist (R31). -/
def Visits (numPixels : Nat) : Option Cursor → List Cursor → Prop
  | c, [] => c = none
  | c, x :: xs => c = some x ∧ Visits numPixels (cursorNext numPixels x) xs

/-- The places of the cursor inside one pixel-frame: three channels, each from its highest bit (R31, R63). -/
def frameCursors (pix : Nat) : List Cursor :=
  [0, 1, 2].flatMap fun ch => [7, 6, 5, 4, 3, 2, 1, 0].map fun bit => { pix := pix, ch := ch, bit := bit }

/-- The places of the cursor in `count` pixel-frames from pixel `pix` on. -/
def bufferCursors (pix count : Nat) : List Cursor := (List.range' pix count).flatMap frameCursors

theorem bufferCursors_succ (pix count : Nat) :
    bufferCursors pix (count + 1) = frameCursors pix ++ bufferCursors (pix + 1) count := rfl

theorem bufferCursors_length (pix count : Nat) : (bufferCursors pix count).length = 24 * count := by
  induction count generalizing pix with
  | zero => rfl
  | succ count ih => rw [bufferCursors_succ, List.length_append, ih, Nat.mul_succ, Nat.add_comm]; rfl

/-- What is left to walk after pixel `pix` begins with the next pixel, if there is one (R31). -/
theorem visits_frameCursors {numPixels pix : Nat} {rest : List Cursor}
    (h : Visits numPixels (if pix + 1 < numPixels then some { pix := pix + 1, ch := 0, bit := 7 } else none) rest) :
    Visits numPixels (some { pix := pix, ch := 0, bit := 7 }) (frameCursors pix ++ rest) := by
  simpa [frameCursors, Visits, cursorNext] using h

/-- From the start of a pixel the cursor walks every frame that is left. -/
theorem visits_bufferCursors {numPixels pix count : Nat} (h : pix + (count + 1) = numPixels) :
    Visits numPixels (some { pix := pix, ch := 0, bit := 7 }) (bufferCursors pix (count + 1)) := by
  induction count generalizing pix with
  | zero => exact visits_frameCursors (by rw [if_neg (by omega)]; rfl)
  | succ count ih =>
    rw [bufferCursors_succ]
    exact visits_frameCursors (by rw [if_pos (by omega)]; exact ih (by omega))

theorem visits_cursorStart {seq : List Pixel} (h : seq ≠ []) :
    Visits seq.length (some cursorStart) (bufferCursors 0 seq.length) := by
  obtain ⟨count, hcount⟩ := Nat.exists_eq_succ_of_ne_zero (List.length_pos_iff.2 h).ne'
  rw [hcount]
  exact visits_bufferCursors (by omega)

/-- The bits at the places of one frame are the frame (R103, R105). -/
theorem frameCursors_bits (o : ChannelOrder) {seq : List Pixel} {pix : Nat} {p : Pixel} (h : seq[pix]? = some p) :
    (frameCursors pix).map (cursorBit o seq) = pixelFrame o p := by
  cases o <;> simp [frameCursors, cursorBit, h, pixelFrame, orderChannels, channelBits]

/-- The bits at the places of all frames are those of the transmission (R105). -/
theorem bufferCursors_bits (o : ChannelOrder) (before seq : List Pixel) :
    (bufferCursors before.length seq.length).map (cursorBit o (before ++ seq)) = wireBits o seq := by
  induction seq generalizing before with
  | nil => rfl
  | cons p seq ih =>
    have tail : (bufferCursors (before.length + 1) seq.length).map (cursorBit o (before ++ p :: seq)) =
        wireBits o seq := by
      simpa using ih (before ++ [p])
    rw [List.length_cons, bufferCursors_succ, List.map_append, tail, wireBits_cons,
      frameCursors_bits o (p := p) (by simp)]

/-- With bits enough the walk reads the bit of every place it passes. -/
theorem cursorWalk_of_visits {o : ChannelOrder} {seq : List Pixel} {c : Option Cursor} {places : List Cursor}
    {fuel : Nat} (h : Visits seq.length c places) (hfuel : places.length ≤ fuel) :
    cursorWalk o seq fuel c = places.map (cursorBit o seq) := by
  induction places generalizing c fuel with
  | nil =>
    obtain rfl : c = none := h
    cases fuel <;> rfl
  | cons x places ih =>
    obtain ⟨rfl, hnext⟩ := h
    obtain ⟨fuel, rfl⟩ : ∃ m, fuel = m + 1 := Nat.exists_eq_add_one.2 (by simp at hfuel; omega)
    exact congrArg (cursorBit o seq x :: ·) (ih hnext (by simpa using hfuel))

/-- Settles O35: from its start the cursor visits every place of the buffer, in order. -/
theorem cursorWalksTheTransmission : Obligations.CursorWalksTheTransmission := by
  unfold Obligations.CursorWalksTheTransmission
  intro o seq fuel hseq hfuel
  rw [cursorWalk_of_visits (visits_cursorStart hseq) (by rwa [bufferCursors_length])]
  exact bufferCursors_bits o [] seq

/-! ### The serializer tick by tick -/

/-- The first tick of a stage, where the counter is 0 (R226). -/
def stageStart (g : Stage) : Serial := { stage := g, ticks := 0 }

/-- The stage that follows a symbol: the next bit at once, or the closing gap (R108, R184). -/
def stageAt : Option Cursor → Stage
  | some c => .high c
  | none => .gap

theorem stageNext_low (numPixels : Nat) (c : Cursor) :
    stageNext numPixels (.low c) = some (stageAt (cursorNext numPixels c)) := by
  cases h : cursorNext numPixels c <;> simp [stageNext, stageAt, h]

section
variable {t : Timing} {k : Slack} {o : ChannelOrder} {seq : List Pixel}

theorem serialWalk_none (fuel : Nat) : serialWalk t k o seq fuel none = [] := by
  cases fuel <;> rfl

/-- The rest of a stage, `left` ticks of it, is at the stage's level, and the next stage follows. -/
theorem serialWalk_rest {g : Stage} {left ticks : Nat} (fuel : Nat) (h : ticks + (left + 1) = stageTicks t k o seq g) :
    serialWalk t k o seq (left + 1 + fuel) (some { stage := g, ticks := ticks }) =
      List.replicate (left + 1) (stageHigh g) ++
        serialWalk t k o seq fuel ((stageNext seq.length g).map stageStart) := by
  induction left generalizing ticks with
  | zero =>
    have hlast : ¬ ticks + 1 < stageTicks t k o seq g := by omega
    rw [Nat.zero_add, Nat.add_comm, serialWalk, serialTick_last hlast]
    rfl
  | succ left ih =>
    have hwithin : ticks + 1 < stageTicks t k o seq g := by omega
    rw [Nat.add_right_comm _ 1 fuel, serialWalk, serialTick_within (x := { stage := g, ticks := ticks }) hwithin,
      ih (ticks := ticks + 1) (by omega)]
    rfl

/-- A stage holds its level for its number of ticks (R107, R226). -/
theorem serialWalk_stage {g : Stage} {n : Nat} (fuel : Nat) (hn : stageTicks t k o seq g = n) (hpos : 0 < n) :
    serialWalk t k o seq (n + fuel) (some (stageStart g)) =
      List.replicate n (stageHigh g) ++ serialWalk t k o seq fuel ((stageNext seq.length g).map stageStart) := by
  obtain ⟨left, rfl⟩ := Nat.exists_eq_add_one.2 hpos
  exact serialWalk_rest fuel (by omega)

/-- Every duration of valid pulse parameters is positive (R107, R108). -/
theorem timing_valid_pos (h : t.valid = true) : 0 < t.t0h ∧ 0 < t.t0l ∧ 0 < t.t1h ∧ 0 < t.t1l ∧ 0 < t.tres := by
  simp [Timing.valid] at h
  omega

variable (hv : t.valid = true)
include hv

/-- At a place of the cursor the serializer makes the symbol of the bit there (R107). -/
theorem serialWalk_symbol (c : Cursor) (fuel : Nat) :
    serialWalk t k o seq (duration (symbol t (cursorBit o seq c)) + fuel) (some (stageStart (.high c))) =
      levels (symbol t (cursorBit o seq c)) ++
        serialWalk t k o seq fuel (some (stageStart (stageAt (cursorNext seq.length c)))) := by
  obtain ⟨h0h, h0l, h1h, h1l, -⟩ := timing_valid_pos hv
  cases hb : cursorBit o seq c with
  | true =>
    rw [duration_symbol, symbolTicks, if_pos rfl, Nat.add_assoc,
      serialWalk_stage _ (by simp [stageTicks, hb]) h1h]
    simp only [stageNext, Option.map_some]
    rw [serialWalk_stage _ (by simp [stageTicks, hb]) h1l, stageNext_low]
    simp [symbol, stageHigh]
  | false =>
    rw [duration_symbol, symbolTicks, if_neg (by simp), Nat.add_assoc,
      serialWalk_stage _ (by simp [stageTicks, hb]) h0h]
    simp only [stageNext, Option.map_some]
    rw [serialWalk_stage _ (by simp [stageTicks, hb]) h0l, stageNext_low]
    simp [symbol, stageHigh]

/-- The closing gap is the serializer's last stage (R108). -/
theorem serialWalk_gap (fuel : Nat) :
    serialWalk t k o seq (duration [lowPeriod t k.gap] + fuel) (some (stageStart .gap)) =
      levels [lowPeriod t k.gap] := by
  obtain ⟨-, -, -, -, hres⟩ := timing_valid_pos hv
  rw [serialWalk_stage fuel (by simp [stageTicks, duration]) (by simp [duration]; omega)]
  simp [stageNext, stageHigh, serialWalk_none, duration]

/-- From any place on the serializer makes the waveform of the bits that are left. -/
theorem serialWalk_of_visits {c : Option Cursor} {places : List Cursor} (h : Visits seq.length c places) (fuel : Nat) :
    serialWalk t k o seq (duration (wave t (places.map (cursorBit o seq)) k.gap) + fuel)
      (some (stageStart (stageAt c))) = levels (wave t (places.map (cursorBit o seq)) k.gap) := by
  induction places generalizing c with
  | nil =>
    obtain rfl : c = none := h
    exact serialWalk_gap hv fuel
  | cons x places ih =>
    obtain ⟨rfl, hnext⟩ := h
    have split : wave t ((x :: places).map (cursorBit o seq)) k.gap =
        symbol t (cursorBit o seq x) ++ wave t (places.map (cursorBit o seq)) k.gap := by simp [wave]
    rw [split, duration_append, Nat.add_assoc, stageAt, serialWalk_symbol hv, ih hnext, levels_append]

/-- From the first symbol on the serializer makes the waveform of the transmission. -/
theorem serialWalk_cursorStart (hseq : seq ≠ []) (fuel : Nat) :
    serialWalk t k o seq (duration (wave t (wireBits o seq) k.gap) + fuel) (some (stageStart (.high cursorStart))) =
      levels (wave t (wireBits o seq) k.gap) := by
  rw [← bufferCursors_bits o [] seq]
  exact serialWalk_of_visits hv (visits_cursorStart hseq) fuel

/-- The low period before the first symbol is one more stage (R183). -/
theorem serialWalk_serialStart (hseq : seq ≠ []) (lead : Bool) (fuel : Nat) :
    serialWalk t k o seq (duration (leadWave t lead k.lead ++ wave t (wireBits o seq) k.gap) + fuel)
      (some (serialStart lead)) = levels (leadWave t lead k.lead ++ wave t (wireBits o seq) k.gap) := by
  obtain ⟨-, -, -, -, hres⟩ := timing_valid_pos hv
  cases lead with
  | false => exact serialWalk_cursorStart hv hseq fuel
  | true =>
    rw [duration_append, Nat.add_assoc, levels_append]
    change serialWalk t k o seq _ (some (stageStart .lead)) = _
    rw [serialWalk_stage _ (by simp [stageTicks, duration]) (by simp [duration]; omega)]
    simp only [stageNext, Option.map_some]
    rw [serialWalk_cursorStart hv hseq]
    simp [stageHigh, duration]

end

/-- Settles O42: what the fuel holds beyond the waveform's length finds no serializer. -/
theorem tickSerializerMakesTheWaveform : Obligations.TickSerializerMakesTheWaveform := by
  unfold Obligations.TickSerializerMakesTheWaveform
  intro t k o seq lead fuel hv hseq hfuel
  obtain ⟨extra, rfl⟩ := Nat.exists_eq_add_of_le hfuel
  exact serialWalk_serialStart hv hseq lead extra

end Sys2Proof.Machine
end

section
/-! Proofs, spec/20_memory.md: the bytes of a command word, a mutation twice, what a transmission says of the buffer,
how the wire history grows, and that a program of commands runs to its end. -/

namespace Sys2Proof

/-! ### The byte-wide transport -/

/-- The more significant byte of a field goes first (R67). -/
@[simp] theorem fieldBytes_append (hi lo : Byte) : fieldBytes (hi ++ lo) = [hi, lo] :=
  congrArg₂ ([·, ·]) BitVec.extractLsb'_append_eq_left BitVec.extractLsb'_append_eq_right

/-- A field is its two bytes. -/
theorem field_of_bytes (v : Field) : v.extractLsb' 8 8 ++ v.extractLsb' 0 8 = v :=
  (BitVec.extractLsb'_append_extractLsb'_eq_extractLsb' rfl).trans BitVec.extractLsb'_eq_self

/-- The bytes of a word decode as the word does, and what follows them is left (R67). -/
theorem decodeBytes_wordBytes (w : CmdWord) (rest : List Byte) :
    decodeBytes (wordBytes w ++ rest) = (decode w).map (·, rest) := by
  simp only [wordBytes, fieldBytes, List.cons_append, List.nil_append, decodeBytes, field_of_bytes, packWord_fields]
  cases decode w <;> rfl

theorem decodeBytes_short {bytes : List Byte} (h : bytes.length < 9) :
    decodeBytes bytes = .error (.tooFewBytes bytes.length) := by
  unfold decodeBytes
  split
  · simp at h; omega
  · rfl

/-- Settles O6: the bytes of a packed word are the bytes packed, and nine of them decode as the word they make. -/
theorem transportIsBigEndian : Obligations.TransportIsBigEndian := by
  unfold Obligations.TransportIsBigEndian
  refine ⟨fun op a1 a0 b1 b0 c1 c0 d1 d0 => ?_, fun w rest i hw => ?_, fun w rest e hw => ?_,
    fun bytes h => decodeBytes_short h⟩
  · simp [wordBytes]
  · rw [decodeBytes_wordBytes, hw]; rfl
  · rw [decodeBytes_wordBytes, hw]; rfl

end Sys2Proof

namespace Sys2Proof.Machine

/-! ### A mutation twice -/

/-- Of two buffers written with their answers the second alone is left. -/
theorem respond_setBuffer_twice (st st' : Status) (d : Driver) (buf buf' : List Pixel) (s : State) :
    respond st' (setBuffer { d with buf := buf } buf' (respond st (setBuffer d buf s))) =
      respond st' (setBuffer d buf' s) := rfl

theorem pbFill_pbFill (r g b : Int) (buf : List Pixel) : pbFill r g b (pbFill r g b buf) = pbFill r g b buf := by
  simp [pbFill]

/-- A command of a `Ready` block repeats its answer if its body does, for its rejection by the phase repeats itself. -/
theorem inReady_repeats {s t : State} {body body' : Driver → Result} (h : inReady s body = .next t)
    (hbody : ∀ d, s.driver = some d → body d = .next t →
      t.phase = s.phase ∧ ∃ d', t.driver = some d' ∧ body' d' = .next t) :
    inReady t body' = .next t := by
  rcases inReady_next h with ⟨hp, rfl⟩ | ⟨hp, rfl⟩ | ⟨hp, d, hd, hb⟩
  · exact inReady_uninitialized _ hp
  · exact inReady_released _ hp
  · obtain ⟨hphase, d', hd', hb'⟩ := hbody d hd hb
    exact (inReady_ready _ (hphase.trans hp) hd').trans hb'

/-- The same cell takes the same colour again, or the same index is out of range again (R154). -/
theorem execSetPixel_repeats {x r g b : Int} {s t : State} (h : execSetPixel x r g b s = .next t) :
    execSetPixel x r g b t = .next t := by
  refine inReady_repeats h fun d hd hb => ?_
  simp only [pbSet] at hb ⊢
  cases hv : indexValid x d.numPixels with
  | false =>
    rw [hv] at hb
    cases hb
    exact ⟨rfl, d, hd, by rw [hv]; rfl⟩
  | true =>
    rw [hv] at hb
    cases hb
    exact ⟨rfl, _, rfl, by simp [hv, respond_setBuffer_twice]⟩

theorem execFillAll_repeats {r g b : Int} {s t : State} (h : execFillAll r g b s = .next t) :
    execFillAll r g b t = .next t := by
  refine inReady_repeats h fun d _ hb => ?_
  cases hb
  exact ⟨rfl, _, rfl, by rw [pbFill_pbFill, respond_setBuffer_twice]⟩

/-- Settles O25: each body repeats itself, and CLEAR is FILL_ALL of zeros (R156, R157). -/
theorem mutationsAreIdempotent : Obligations.MutationsAreIdempotent := by
  unfold Obligations.MutationsAreIdempotent
  rintro i s t (⟨x, r, g, b, rfl⟩ | ⟨r, g, b, rfl⟩ | rfl) h
  · exact execSetPixel_repeats h
  · exact execFillAll_repeats h
  · exact execFillAll_repeats (r := 0) (g := 0) (b := 0) h

/-! ### A transmission and the buffer it carries -/

/-- The eight bits of a channel are all of it (R63). -/
theorem channelBits_injective {v w : Channel} (h : channelBits v = channelBits w) : v = w := by
  refine BitVec.eq_of_getLsbD_eq fun i hi => List.map_inj_left.1 h i ?_
  simp; omega

/-- Of the channels whose bits are sent each can be told from the bits, for all are of one length. -/
theorem chan_eq_of_bits {p q : Pixel} {names : List ChannelName}
    (h : (names.flatMap fun c => channelBits (chan p c)) = names.flatMap fun c => channelBits (chan q c)) :
    ∀ c ∈ names, chan p c = chan q c := by
  induction names with
  | nil => simp
  | cons c names ih =>
    obtain ⟨hfirst, hrest⟩ := List.append_inj h rfl
    exact List.forall_mem_cons.2 ⟨channelBits_injective hfirst, ih hrest⟩

/-- No order leaves a channel out (R104). -/
theorem mem_orderChannels (o : ChannelOrder) (c : ChannelName) : c ∈ orderChannels o := by
  cases o <;> cases c <;> decide

theorem pixelFrame_injective {o : ChannelOrder} {p q : Pixel} (h : pixelFrame o p = pixelFrame o q) : p = q := by
  have hchan (c : ChannelName) : chan p c = chan q c := chan_eq_of_bits h c (mem_orderChannels o c)
  obtain ⟨r, g, b⟩ := p
  obtain ⟨r', g', b'⟩ := q
  exact congr (congrArg₂ Pixel.mk (hchan .red) (hchan .green)) (hchan .blue)

/-- Settles O36: equal bits are of equally many pixels, and frame by frame of the same ones. -/
theorem transmissionDeterminesTheBuffer : Obligations.TransmissionDeterminesTheBuffer := by
  unfold Obligations.TransmissionDeterminesTheBuffer
  intro o a b h
  have hlen : a.length = b.length := by simpa using congrArg List.length h
  induction a generalizing b with
  | nil => exact (List.length_eq_zero_iff.1 hlen.symm).symm
  | cons p a ih =>
    cases b with
    | nil => simp at hlen
    | cons q b =>
      obtain ⟨hframe, hrest⟩ := List.append_inj h (by simp)
      rw [pixelFrame_injective hframe, ih b hrest (by simpa using hlen)]

/-! ### The wire history -/

theorem showBuffer_wire (d : Driver) (s : State) : ∃ x, (showBuffer d s).wire = s.wire ++ [x] := by
  rcases showBuffer_cases d s with ⟨-, e⟩ | ⟨_, -, e⟩ <;> rw [e] <;> exact ⟨_, rfl⟩

theorem tearDown_wire (d : Driver) (s : State) : ∃ x, (tearDown d s).wire = s.wire ++ [x] := by
  rcases tearDown_cases d s with ⟨-, e⟩ | ⟨_, -, e⟩ <;> rw [e] <;> exact ⟨_, rfl⟩

theorem construct_wire (p n : Nat) (buf : List Pixel) (s : State) :
    ∃ x, (construct p n buf s).wire = s.wire ++ [x] := by
  rcases construct_cases p n buf s with ⟨-, e⟩ | ⟨_, -, e⟩ <;> rw [e] <;> exact ⟨_, rfl⟩

theorem invokesTransmit_uninitialized {i : Instr} {s : State} (hp : s.phase = .uninitialized)
    (hi : ∀ p n, i ≠ .new p n) : invokesTransmit i s = false := by
  cases i with
  | new p n => exact absurd rfl (hi p n)
  | _ => simp [invokesTransmit, hp]

theorem invokesTransmit_released {i : Instr} {s : State} (hp : s.phase = .released) : invokesTransmit i s = false := by
  cases i <;> simp [invokesTransmit, hp]

/-- NEW transmits where it constructs a driver and nowhere else (R152). -/
theorem execNew_wire {p n : Nat} {s t : State} (h : execNew p n s = .next t) :
    (invokesTransmit (.new p n) s = false ∧ t.wire = s.wire) ∨
    (invokesTransmit (.new p n) s = true ∧ ∃ x, t.wire = s.wire ++ [x]) := by
  rcases execNew_cases h with ⟨hp, rfl⟩ | ⟨hp, rfl⟩ | ⟨hp, hno, rfl⟩ | ⟨hp, -, -, rfl, rfl⟩ | ⟨hp, hc, hm, h1, -, rfl⟩
  · exact .inl ⟨by simp [invokesTransmit, hp], rfl⟩
  · exact .inl ⟨invokesTransmit_released hp, rfl⟩
  · exact .inl ⟨by rcases hno with hno | hno <;> simp [invokesTransmit, hp, hno], rfl⟩
  · exact .inl ⟨by simp [invokesTransmit, hp], rfl⟩
  · exact .inr ⟨by simp [invokesTransmit, hp, hc, hm, h1], construct_wire ..⟩

/-- A command puts one entry on the wire if it invokes Transmit, and none otherwise (R75, R186). -/
theorem exec_wire {i : Instr} {s t : State} (h : exec i s = .next t) :
    (invokesTransmit i s = false ∧ t.wire = s.wire) ∨
    (invokesTransmit i s = true ∧ ∃ x, t.wire = s.wire ++ [x]) := by
  rcases exec_cases h with ⟨p, n, rfl, hn⟩ | ⟨hp, hi, rfl⟩ | ⟨hp, -, -, rfl⟩ | ⟨hp, -, rfl⟩ | ⟨hp, d, -, body⟩
  · exact execNew_wire hn
  · exact .inl ⟨invokesTransmit_uninitialized hp hi, rfl⟩
  · exact .inl ⟨invokesTransmit_released hp, rfl⟩
  · exact .inl ⟨invokesTransmit_released hp, rfl⟩
  · rcases body with ⟨x, r, g, b, rfl, rfl⟩ | ⟨r, g, b, rfl, rfl⟩ | ⟨rfl, rfl⟩ | ⟨rfl, -, rfl⟩ | ⟨rfl, -, rfl⟩
    · exact .inl ⟨rfl, by split <;> rfl⟩
    · exact .inl ⟨rfl, rfl⟩
    · exact .inl ⟨rfl, rfl⟩
    · exact .inr ⟨by simp [invokesTransmit, hp], showBuffer_wire d s⟩
    · exact .inr ⟨by simp [invokesTransmit, hp], tearDown_wire d s⟩

/-- Settles O39. -/
theorem wireGrowsByOneEntryPerCommit : Obligations.WireGrowsByOneEntryPerCommit := by
  unfold Obligations.WireGrowsByOneEntryPerCommit
  intro i s t h
  rcases exec_wire h with ⟨hquiet, hw⟩ | ⟨hsends, x, hw⟩
  · simp [txCount, hquiet, hw]
  · simp [txCount, hsends, hw]

/-! ### No command writes the inputs -/

@[simp] theorem showBuffer_inputs (d : Driver) (s : State) : (showBuffer d s).inputs = s.inputs := by
  rcases showBuffer_cases d s with ⟨-, e⟩ | ⟨_, -, e⟩ <;> rw [e]

@[simp] theorem tearDown_inputs (d : Driver) (s : State) : (tearDown d s).inputs = s.inputs := by
  rcases tearDown_cases d s with ⟨-, e⟩ | ⟨_, -, e⟩ <;> rw [e]

@[simp] theorem construct_inputs (p n : Nat) (buf : List Pixel) (s : State) :
    (construct p n buf s).inputs = s.inputs := by
  rcases construct_cases p n buf s with ⟨-, e⟩ | ⟨_, -, e⟩ <;> rw [e]

theorem execNew_inputs {p n : Nat} {s t : State} (h : execNew p n s = .next t) : t.inputs = s.inputs := by
  rcases execNew_cases h with ⟨-, rfl⟩ | ⟨-, rfl⟩ | ⟨-, -, rfl⟩ | ⟨-, -, -, -, rfl⟩ | ⟨-, -, -, -, -, rfl⟩ <;> simp

theorem exec_inputs {i : Instr} {s t : State} (h : exec i s = .next t) : t.inputs = s.inputs := by
  rcases exec_cases h with ⟨p, n, -, hn⟩ | ⟨-, -, rfl⟩ | ⟨-, -, -, rfl⟩ | ⟨-, -, rfl⟩ | ⟨-, d, -, body⟩
  · exact execNew_inputs hn
  · rfl
  · rfl
  · rfl
  · rcases body with ⟨x, r, g, b, -, rfl⟩ | ⟨r, g, b, -, rfl⟩ | ⟨-, rfl⟩ | ⟨-, -, rfl⟩ | ⟨-, -, rfl⟩
    · split <;> rfl
    · rfl
    · rfl
    · exact showBuffer_inputs d s
    · exact tearDown_inputs d s

/-! ### Every command is answered -/

/-- Up to `MAX_PIXELS` every NEW is answered (R131, R152). -/
theorem execNew_answers {p n : Nat} {s : State} (hn : n ≤ s.cfg.maxPixels.toNat) : ∃ t, execNew p n s = .next t := by
  cases hp : s.phase with
  | ready => exact ⟨_, execNew_ready hp⟩
  | released => exact ⟨_, execNew_released hp⟩
  | uninitialized =>
    rcases claim_cases p s with ⟨hc, hm, -⟩ | ⟨hno, -⟩
    · rcases Nat.eq_zero_or_pos n with rfl | h1
      · exact ⟨_, execNew_zero hp hc hm⟩
      · exact ⟨_, execNew_constructs hp hc hm h1 hn⟩
    · exact ⟨_, execNew_unavailable hp hno⟩

/-- In a state of the right shape a command of a `Ready` block finds its driver and the line (R28, R41). -/
theorem inReady_answers {s : State} {body : Driver → Result} (hs : s.Shape)
    (hbody : ∀ d, s.ownsLine = true → ∃ t, body d = .next t) : ∃ t, inReady s body = .next t := by
  cases hp : s.phase with
  | uninitialized => exact ⟨_, inReady_uninitialized _ hp⟩
  | released => exact ⟨_, inReady_released _ hp⟩
  | ready =>
    obtain ⟨-, d, hd, -, -, ho, -⟩ := (shape_ready hp).1 hs
    rw [inReady_ready _ hp hd]
    exact hbody d ho

/-- From a state of the right shape every command but a NEW beyond `MAX_PIXELS` is answered (R220). -/
theorem exec_answers {i : Instr} {s : State} (hs : s.Shape)
    (hnew : ∀ p n, i = .new p n → n ≤ s.cfg.maxPixels.toNat) : ∃ t, exec i s = .next t := by
  cases i with
  | new p n => exact execNew_answers (hnew p n rfl)
  | setPixel x r g b =>
    refine inReady_answers hs fun d _ => ?_
    split
    · exact ⟨_, rfl⟩
    · exact ⟨_, rfl⟩
  | fillAll r g b => exact inReady_answers hs fun _ _ => ⟨_, rfl⟩
  | clear => exact inReady_answers hs fun _ _ => ⟨_, rfl⟩
  | showStrip => exact inReady_answers hs fun _ ho => ⟨_, withLine_owned _ ho⟩
  | release =>
    change ∃ t, execRelease s = .next t
    unfold execRelease
    split
    · exact ⟨_, rfl⟩
    · exact inReady_answers hs fun _ ho => ⟨_, withLine_owned _ ho⟩

/-! ### A program runs to its end -/

/-- A reserved word is taken and answered with its status (R97, R217). -/
theorem step_reserved {s : State} {w : CmdWord} {rest : List Input} {e : DecodeError} (hb : s.busy = false)
    (hi : s.inputs = .command w :: rest) (hw : decode w = .error e) :
    step s = .next (respond .illegalCommand (accept rest s)) := by
  simp [step, nextAction, takeCommand, hi, hb, hw]

/-- A command word at the head of the inputs is taken and answered in one step (R90, R190). -/
theorem step_answers_word {s : State} {w : CmdWord} {rest : List Input} (hinv : s.Inv)
    (hi : s.inputs = .command w :: rest) (hnew : ∀ p n, decode w = .ok (.new p n) → n ≤ s.cfg.maxPixels.toNat) :
    ∃ t, step s = .next t ∧ t.inputs = rest ∧ t.rsp = some t.status := by
  obtain ⟨hb, hs⟩ := hinv
  cases hw : decode w with
  | error e => exact ⟨_, step_reserved hb hi hw, rfl, rfl⟩
  | ok i =>
    obtain ⟨t, ht⟩ := exec_answers (s := accept rest s) hs fun p n e => hnew p n (hw.trans (congrArg _ e))
    exact ⟨t, (step_command hb hi hw).trans ht, exec_inputs ht, exec_rsp ht⟩

/-- One step of a program: the first command is answered, and what is left is a program for the state it leaves. -/
theorem step_onlyCommands {s : State} (hinv : s.Inv) (hc : onlyCommands s.cfg s.inputs) (hpos : 0 < s.inputs.length) :
    ∃ t, step s = .next t ∧ t.inputs = s.inputs.tail ∧ t.rsp = some t.status ∧ t.Inv ∧
      onlyCommands t.cfg t.inputs := by
  obtain ⟨x, rest, hi⟩ := List.exists_cons_of_length_pos hpos
  rw [hi] at hc ⊢
  obtain ⟨⟨w, rfl, hnew⟩, hrest⟩ := List.forall_mem_cons.1 hc
  obtain ⟨t, hstep, hin, hrsp⟩ := step_answers_word hinv hi hnew
  refine ⟨t, hstep, hin, hrsp, stepKeepsTheInvariant s t hinv hstep, ?_⟩
  rw [configurationIsConstant s t hstep, hin]
  exact hrest

theorem core_run_succ {s u : State} (h : step s = .next u) (k : Nat) : core.run (k + 1) s = core.run k u := by
  have hcore : core.step s = .next u := h
  simp only [Host.Core.run, hcore]

/-- After each step of a program the command just taken is answered and the later ones still stand (R74, R90). -/
theorem run_onlyCommands {k : Nat} {s : State} (hinv : s.Inv) (hc : onlyCommands s.cfg s.inputs)
    (hk : k < s.inputs.length) :
    ∃ u, core.run (k + 1) s = .next u ∧ u.inputs = s.inputs.drop (k + 1) ∧ u.rsp = some u.status ∧ u.Inv := by
  induction k generalizing s with
  | zero =>
    obtain ⟨t, hstep, hin, hrsp, hinv', -⟩ := step_onlyCommands hinv hc hk
    exact ⟨t, core_run_succ hstep 0, by rw [hin, List.drop_one], hrsp, hinv'⟩
  | succ k ih =>
    obtain ⟨t, hstep, hin, -, hinv', hc'⟩ := step_onlyCommands hinv hc (by omega)
    have hk' : k < t.inputs.length := by rw [hin, List.length_tail]; omega
    rw [core_run_succ hstep, ← List.drop_tail, ← hin]
    exact ih hinv' hc' hk'

/-- Settles O56: the run over the whole program is the one that ends with its last command. -/
theorem everyProgramRunsToItsEnd : Obligations.EveryProgramRunsToItsEnd := by
  unfold Obligations.EveryProgramRunsToItsEnd
  intro s hinv hc
  refine ⟨?_, fun k hk => ?_⟩
  · cases hlen : s.inputs.length with
    | zero => exact ⟨s, rfl, List.length_eq_zero_iff.1 hlen, hinv⟩
    | succ k =>
      obtain ⟨t, hrun, hin, -, hinv'⟩ := run_onlyCommands hinv hc (k := k) (by omega)
      exact ⟨t, hrun, by rw [hin, ← hlen, List.drop_length], hinv'⟩
  · obtain ⟨u, hrun, hin, hrsp, -⟩ := run_onlyCommands hinv hc hk
    exact ⟨u, hrun, hin, hrsp⟩

end Sys2Proof.Machine
end

section
/-! Proofs, spec/30_encoding.md: the command word both ways, the bits of a transmission and their pulses, the receiver,
what stops a step, and the text form. -/

namespace Sys2Proof

/-! ### Decoding: one equation per opcode -/

section
variable {w : CmdWord}

theorem decode_new (h : opcodeField w = 0x01#8) :
    decode w = .ok (.new (zext16 (fieldA w)) (zext16 (fieldB w))) := by simp [decode, h]

theorem decode_setPixel (h : opcodeField w = 0x02#8) :
    decode w = .ok (.setPixel (sext16 (fieldA w)) (sext16 (fieldB w)) (sext16 (fieldC w)) (sext16 (fieldD w))) := by
  simp [decode, h]

theorem decode_fillAll (h : opcodeField w = 0x03#8) :
    decode w = .ok (.fillAll (sext16 (fieldB w)) (sext16 (fieldC w)) (sext16 (fieldD w))) := by simp [decode, h]

theorem decode_clear (h : opcodeField w = 0x04#8) : decode w = .ok .clear := by simp [decode, h]

theorem decode_showStrip (h : opcodeField w = 0x05#8) : decode w = .ok .showStrip := by simp [decode, h]

theorem decode_release (h : opcodeField w = 0x06#8) : decode w = .ok .release := by simp [decode, h]

/-- The opcodes outside the table are reserved (R97). -/
theorem decode_reserved (h : opcodeField w = 0x00#8 ∨ 0x07#8 ≤ opcodeField w) :
    decode w = .error (.reservedOpcode (opcodeField w)) := by
  have outside : (opcodeField w).toNat = 0 ∨ 7 ≤ (opcodeField w).toNat := by bv_omega
  unfold decode
  split
  case h_7 => rfl
  all_goals omega

end

/-- The opcodes of the table, and the reserved ones (R92, R97). -/
theorem opcode_cases (op : Byte) : op = 0x01#8 ∨ op = 0x02#8 ∨ op = 0x03#8 ∨ op = 0x04#8 ∨ op = 0x05#8 ∨
    op = 0x06#8 ∨ op = 0x00#8 ∨ 0x07#8 ≤ op := by bv_omega

/-- Settles O3: the equations of the decoder, read on the bits of the word. -/
theorem decodingIsTotalByOpcode : Obligations.DecodingIsTotalByOpcode := by
  unfold Obligations.DecodingIsTotalByOpcode
  exact fun w => ⟨decode_new, decode_setPixel, decode_fillAll, decode_clear, decode_showStrip, decode_release,
    decode_reserved⟩

/-! ### Operands and their fields -/

/-- An unsigned operand that fits its field comes back from it (R94). -/
theorem zext16_ofNat {n : Nat} (h : FitsUnsigned n) : zext16 (BitVec.ofNat 16 n) = n :=
  Nat.mod_eq_of_lt (Nat.lt_succ_of_le h)

/-- A signed operand that fits its field comes back from it (R94). -/
theorem sext16_ofInt {v : Int} (h : FitsSigned v) : sext16 (BitVec.ofInt 16 v) = v :=
  BitVec.toInt_ofInt_eq_self (by decide) h.1 (by omega)

@[simp] theorem ofNat_zext16 (f : Field) : BitVec.ofNat 16 (zext16 f) = f := by simp [zext16]

@[simp] theorem ofInt_sext16 (f : Field) : BitVec.ofInt 16 (sext16 f) = f := BitVec.ofInt_toInt

theorem zext16_fits (f : Field) : FitsUnsigned (zext16 f) := Nat.le_of_lt_succ f.isLt

theorem sext16_fits (f : Field) : FitsSigned (sext16 f) := ⟨BitVec.le_toInt f, Int.le_of_lt_add_one BitVec.toInt_lt⟩

theorem wellFormed_new (p n : Nat) : (Instr.new p n).WellFormed ↔ FitsUnsigned p ∧ FitsUnsigned n := by
  simp [Instr.WellFormed, Instr.wellFormed]

theorem wellFormed_setPixel (x r g b : Int) :
    (Instr.setPixel x r g b).WellFormed ↔ FitsSigned x ∧ FitsSigned r ∧ FitsSigned g ∧ FitsSigned b := by
  simp [Instr.WellFormed, Instr.wellFormed, and_assoc]

theorem wellFormed_fillAll (r g b : Int) :
    (Instr.fillAll r g b).WellFormed ↔ FitsSigned r ∧ FitsSigned g ∧ FitsSigned b := by
  simp [Instr.WellFormed, Instr.wellFormed, and_assoc]

/-! ### The command word both ways -/

/-- The law of every command's word, command by command (R92, R96). -/
theorem opcodeRow (i : Instr) : Laws.OpcodeRow.Statement i := by
  cases i with
  | new p n => exact Laws.OpcodeRow.new p n
  | setPixel x r g b => exact Laws.OpcodeRow.setPixel x r g b
  | fillAll r g b => exact Laws.OpcodeRow.fillAll r g b
  | clear => exact Laws.OpcodeRow.clear
  | showStrip => exact Laws.OpcodeRow.showStrip
  | release => exact Laws.OpcodeRow.release

theorem opcodeField_encode (i : Instr) : opcodeField (encode i) = opcodeOf i := by
  obtain ⟨hop, -⟩ := opcodeRow i
  exact hop

/-- The word of a command matches the command's row of the opcode table (R96). -/
theorem mask_encode (i : Instr) : encode i &&& opcodeMask = opcodeMatch i := by
  obtain ⟨-, -, -, hmask⟩ := opcodeRow i
  exact hmask

/-- Settles O1: the word's opcode selects the command's own equation, and each operand comes back from its field. -/
theorem encodedCommandsDecodeBack : Obligations.EncodedCommandsDecodeBack := by
  unfold Obligations.EncodedCommandsDecodeBack
  intro i hi
  cases i with
  | new p n =>
    obtain ⟨hp, hn⟩ := (wellFormed_new p n).1 hi
    rw [decode_new (opcodeField_encode _)]
    simp [encode, zext16_ofNat hp, zext16_ofNat hn]
  | setPixel x r g b =>
    obtain ⟨hx, hr, hg, hb⟩ := (wellFormed_setPixel x r g b).1 hi
    rw [decode_setPixel (opcodeField_encode _)]
    simp [encode, sext16_ofInt hx, sext16_ofInt hr, sext16_ofInt hg, sext16_ofInt hb]
  | fillAll r g b =>
    obtain ⟨hr, hg, hb⟩ := (wellFormed_fillAll r g b).1 hi
    rw [decode_fillAll (opcodeField_encode _)]
    simp [encode, sext16_ofInt hr, sext16_ofInt hg, sext16_ofInt hb]
  | clear => exact decode_clear (opcodeField_encode _)
  | showStrip => exact decode_showStrip (opcodeField_encode _)
  | release => exact decode_release (opcodeField_encode _)

/-- Settles O2: opcode by opcode, for the operands of a decoded command are the fields of its word. -/
theorem decodedWordsReencodeCanonically : Obligations.DecodedWordsReencodeCanonically := by
  unfold Obligations.DecodedWordsReencodeCanonically
  intro w i h
  rcases opcode_cases (opcodeField w) with hop | hop | hop | hop | hop | hop | hop
  · rw [decode_new hop] at h
    cases h
    exact ⟨(wellFormed_new ..).2 ⟨zext16_fits _, zext16_fits _⟩, by simp [encode, opcodeOf, canonicalWord, hop]⟩
  · rw [decode_setPixel hop] at h
    cases h
    refine ⟨(wellFormed_setPixel ..).2 ⟨sext16_fits _, sext16_fits _, sext16_fits _, sext16_fits _⟩, ?_⟩
    have hword := packWord_fields w
    rw [hop] at hword
    simp [encode, opcodeOf, canonicalWord, hop, hword]
  · rw [decode_fillAll hop] at h
    cases h
    exact ⟨(wellFormed_fillAll ..).2 ⟨sext16_fits _, sext16_fits _, sext16_fits _⟩,
      by simp [encode, opcodeOf, canonicalWord, hop]⟩
  · rw [decode_clear hop] at h
    cases h
    exact ⟨rfl, by simp [encode, opcodeOf, canonicalWord, hop]⟩
  · rw [decode_showStrip hop] at h
    cases h
    exact ⟨rfl, by simp [encode, opcodeOf, canonicalWord, hop]⟩
  · rw [decode_release hop] at h
    cases h
    exact ⟨rfl, by simp [encode, opcodeOf, canonicalWord, hop]⟩
  · rw [decode_reserved hop] at h
    cases h

/-! ### Ignored fields -/

/-- Of a word the opcode table's mask keeps the opcode byte (R96). -/
theorem mask_word (w : CmdWord) : w &&& opcodeMask = packWord (opcodeField w) 0 0 0 0 := by
  rw [← packWord_mask, packWord_fields]

/-- The opcode byte is no ignored field. -/
@[simp] theorem opcodeField_canonicalWord (w : CmdWord) : opcodeField (canonicalWord w) = opcodeField w := by
  unfold canonicalWord
  split <;> simp

/-- A word that decodes matches its command's row: its canonical form does, with the same opcode byte (R96). -/
theorem mask_of_decode {w : CmdWord} {i : Instr} (h : decode w = .ok i) : w &&& opcodeMask = opcodeMatch i := by
  obtain ⟨-, hcanon⟩ := decodedWordsReencodeCanonically w i h
  rw [← mask_encode i, hcanon, mask_word, mask_word, opcodeField_canonicalWord]

/-- Settles O4: no equation of the decoder reads a field its command ignores. -/
theorem ignoredFieldsHaveNoEffect : Obligations.IgnoredFieldsHaveNoEffect := by
  unfold Obligations.IgnoredFieldsHaveNoEffect
  refine ⟨fun a b c d c' d' => ?_, fun a b c d a' => ?_, ?_, fun p n => ⟨fieldC_packWord .., fieldD_packWord ..⟩,
    fun r g b => fieldA_packWord .., rfl, rfl, rfl, fun w i h => mask_of_decode h⟩
  · simp [decode_new]
  · simp [decode_fillAll]
  · rintro op (rfl | rfl | rfl) a b c d a' b' c' d'
    · simp [decode_clear]
    · simp [decode_showStrip]
    · simp [decode_release]

/-- Settles O5, word by word. -/
theorem sampleWordsDecode : Obligations.SampleWordsDecode := by
  unfold Obligations.SampleWordsDecode
  decide

end Sys2Proof

namespace Sys2Proof.Machine

/-! ### A list made of pieces of one length -/

/-- Where every element gives `k` pieces, piece `n` is piece `n % k` of element `n / k`. -/
theorem getElem?_flatMap_of_length {α β : Type} {k : Nat} {f : α → List β} (hk : 0 < k)
    (hf : ∀ x, (f x).length = k) (l : List α) (n : Nat) :
    (l.flatMap f)[n]? = l[n / k]?.bind fun x => (f x)[n % k]? := by
  induction l generalizing n with
  | nil => simp
  | cons x l ih =>
    rw [List.flatMap_cons]
    by_cases hn : n < k
    · rw [List.getElem?_append_left (by rwa [hf]), Nat.div_eq_of_lt hn, Nat.mod_eq_of_lt hn]
      simp
    · have hge : k ≤ n := by omega
      rw [List.getElem?_append_right (by rwa [hf]), hf, ih, Nat.div_eq_sub_div hk hge, Nat.mod_eq_sub_mod hge]
      simp

/-! ### Which bit of the transmission is which -/

/-- Bit `m` of a channel on the wire is its bit `7 - m` (R63). -/
theorem channelBits_getElem? (v : Channel) {m : Nat} (hm : m < 8) : (channelBits v)[m]? = some (v.getLsbD (7 - m)) := by
  have place : ∀ m < 8, [7, 6, 5, 4, 3, 2, 1, 0][m]? = some (7 - m) := by decide
  rw [channelBits, List.getElem?_map, place m hm, Option.map_some]

theorem orderChannels_length (o : ChannelOrder) : (orderChannels o).length = 3 := by cases o <;> rfl

/-- Bit `m` of a pixel-frame (R103, R105). -/
theorem pixelFrame_getElem? (o : ChannelOrder) (p : Pixel) (m : Nat) :
    (pixelFrame o p)[m]? = (orderChannels o)[m / 8]?.map fun c => (chan p c).getLsbD (7 - m % 8) := by
  rw [pixelFrame, getElem?_flatMap_of_length (by decide) fun c => channelBits_length (chan p c), Option.map_eq_bind]
  simp [channelBits_getElem? _ (Nat.mod_lt m (by decide : 0 < 8))]

/-- Settles O34: pixel, channel and bit are the quotients and remainders of the bit's number by 24 and by 8. -/
theorem wireBitNumberFormula : Obligations.WireBitNumberFormula := by
  unfold Obligations.WireBitNumberFormula
  intro o seq
  refine ⟨wireBits_length o seq, fun n hn => ?_⟩
  have hpix : n / 24 < seq.length := by omega
  have hchan : n / 8 % 3 < (orderChannels o).length := by rw [orderChannels_length]; omega
  refine ⟨seq[n / 24], (orderChannels o)[n / 8 % 3], List.getElem?_eq_getElem hpix,
    List.getElem?_eq_getElem hchan, ?_⟩
  have hframe : n % 24 / 8 = n / 8 % 3 := by omega
  have hbit : n % 24 % 8 = n % 8 := by omega
  rw [wireBits, getElem?_flatMap_of_length (by decide) (pixelFrame_length o), List.getElem?_eq_getElem hpix,
    Option.bind_some, pixelFrame_getElem?, hframe, hbit, List.getElem?_eq_getElem hchan, Option.map_some]

/-! ### The waveform -/

/-- Two segments for each bit (R107). -/
@[simp] theorem dataWave_length (t : Timing) (bits : List Bool) : (dataWave t bits).length = 2 * bits.length := by
  induction bits with
  | nil => rfl
  | cons b bits ih => simp [ih]; omega

/-- The segments of bit `n` stand at places `2 * n` and `2 * n + 1` of the waveform (R107, R184). -/
theorem wave_getElem? {t : Timing} {bits : List Bool} {n j : Nat} {b : Bool} (extra : Nat) (hb : bits[n]? = some b)
    (hj : j < 2) : (wave t bits extra)[2 * n + j]? = (symbol t b)[j]? := by
  obtain ⟨hn, -⟩ := List.getElem?_eq_some_iff.1 hb
  have hbit : (2 * n + j) / 2 = n := by omega
  have hpart : (2 * n + j) % 2 = j := by omega
  rw [wave, List.getElem?_append_left (by rw [dataWave_length]; omega), dataWave,
    getElem?_flatMap_of_length (by decide) (symbol_length t), hbit, hpart, hb, Option.bind_some]

/-- Settles O40: the places of each bit's symbol, and after the last of them the closing gap. -/
theorem waveIsOneSymbolPerBit : Obligations.WaveIsOneSymbolPerBit := by
  unfold Obligations.WaveIsOneSymbolPerBit
  intro t bits extra
  refine ⟨by simp [wave], ⟨t.tres + extra, Nat.le_add_right .., by simp [wave, lowPeriod]⟩, fun x hx => ?_,
    fun n b hb => ⟨?_, ?_⟩⟩
  · obtain rfl : x = lowPeriod t extra := by simpa using hx
    exact ⟨rfl, Nat.le_add_right ..⟩
  · rw [← Nat.add_zero (2 * n), wave_getElem? extra hb (by decide)]
    cases b <;> rfl
  · rw [wave_getElem? extra hb (by decide)]
    cases b <;> rfl

/-- No low part of a symbol reaches the reset threshold (R108). -/
theorem timing_valid_low_lt {t : Timing} (h : t.valid = true) : t.t0l < t.tres ∧ t.t1l < t.tres := by
  simp [Timing.valid] at h
  omega

/-- The high part of a 1 is the longer one (R107). -/
theorem timing_valid_high_lt {t : Timing} (h : t.valid = true) : t.t0h < t.t1h := by
  simp [Timing.valid] at h
  omega

/-- Settles O41: every segment of the data is a part of some bit's symbol. -/
theorem noLowInsideATransmissionReachesReset : Obligations.NoLowInsideATransmissionReachesReset := by
  unfold Obligations.NoLowInsideATransmissionReachesReset
  intro t bits x hv hx hlow
  obtain ⟨-, h0l, -, h1l, -⟩ := timing_valid_pos hv
  obtain ⟨h0r, h1r⟩ := timing_valid_low_lt hv
  obtain ⟨b, -, hsym⟩ := List.mem_flatMap.1 hx
  cases b with
  | true =>
    obtain rfl | rfl : x = _ ∨ x = _ := by simpa [symbol] using hsym
    · cases hlow
    · exact ⟨h1l, h1r⟩
  | false =>
    obtain rfl | rfl : x = _ ∨ x = _ := by simpa [symbol] using hsym
    · cases hlow
    · exact ⟨h0l, h0r⟩

/-! ### The receiver -/

/-- A gap of `TRES` or more ends the transmission that was read, and what follows is read afresh (R106). -/
theorem receive_after_gap {t : Timing} {bits : List Bool} {low : Nat} {x : Segment} (more : List Segment)
    (hx : x.high = true) (hlow : t.tres ≤ low) (hbits : bits ≠ []) :
    receive t bits low (x :: more) = bits :: receive t [] low (x :: more) := by
  simp [receive, hx, hlow, hbits]

/-- After a gap the symbols of another transmission are read by themselves (R106). -/
theorem receive_next {t : Timing} {data bits : List Bool} {low : Nat} (more : List Segment) (hlow : t.tres ≤ low)
    (hbits : bits ≠ []) (hdata : data ≠ []) :
    receive t bits low (dataWave t data ++ more) = bits :: receive t [] low (dataWave t data ++ more) := by
  obtain ⟨b, data, rfl⟩ := List.exists_cons_of_ne_nil hdata
  cases b with
  | true => exact receive_after_gap _ rfl hlow hbits
  | false => exact receive_after_gap _ rfl hlow hbits

section
variable {t : Timing} (hv : t.valid = true)
include hv

/-- A symbol is read as its bit, where no gap comes before it or no bit does (R107). -/
theorem receive_symbol (b : Bool) {bits : List Bool} {low : Nat} (more : List Segment) (h : low < t.tres ∨ bits = []) :
    ∃ low', low' < t.tres ∧ receive t bits low (symbol t b ++ more) = receive t (bits ++ [b]) low' more := by
  have joins : (decide (t.tres ≤ low) && !bits.isEmpty) = false := by
    rcases h with h | rfl
    · simp [h]
    · simp
  obtain ⟨h0r, h1r⟩ := timing_valid_low_lt hv
  cases b with
  | true => exact ⟨t.t1l, h1r, by simp [symbol, receive, joins, timing_valid_high_lt hv]⟩
  | false => exact ⟨t.t0l, h0r, by simp [symbol, receive, joins]⟩

/-- The symbols of a run of bits are read as those bits, for no low part among them is a gap (R108). -/
theorem receive_dataWave {data bits : List Bool} {low : Nat} (more : List Segment) (h : low < t.tres ∨ bits = [])
    (hdata : data ≠ []) :
    ∃ low', low' < t.tres ∧ receive t bits low (dataWave t data ++ more) = receive t (bits ++ data) low' more := by
  induction data generalizing bits low with
  | nil => exact absurd rfl hdata
  | cons b data ih =>
    rw [dataWave_cons, List.append_assoc]
    obtain ⟨low', hlow', e⟩ := receive_symbol hv b (dataWave t data ++ more) h
    rw [e]
    cases data with
    | nil => exact ⟨low', hlow', rfl⟩
    | cons c data => simpa using ih (bits := bits ++ [b]) (.inl hlow') (by simp)

/-- A transmission and a low period of `TRES` or more leave its bits read and the line low for as long. -/
theorem receive_transmission {data : List Bool} (low : Nat) {x : Segment} (more : List Segment) (hdata : data ≠ [])
    (hx : x.high = false) (hticks : t.tres ≤ x.ticks) :
    ∃ low', t.tres ≤ low' ∧ receive t [] low (dataWave t data ++ x :: more) = receive t data low' more := by
  obtain ⟨low', -, e⟩ := receive_dataWave hv (low := low) (x :: more) (.inr rfl) hdata
  exact ⟨low' + x.ticks, by omega, by rw [e, receive_low _ _ _ _ hx]; rfl⟩

/-- At the end of the line the bits since the last gap are reported. -/
theorem receive_wave {data : List Bool} (low extra : Nat) (hdata : data ≠ []) :
    receive t [] low (wave t data extra) = [data] := by
  obtain ⟨low', -, e⟩ := receive_transmission hv low [] hdata (lowPeriod_high t extra) (Nat.le_add_right ..)
  rw [wave, e]
  simp [receive, hdata]

end

/-- Settles O44: a low period before the first bit ends nothing, and each one after a bit ends a transmission. -/
theorem gapsSeparateTransmissions : Obligations.GapsSeparateTransmissions := by
  unfold Obligations.GapsSeparateTransmissions
  intro t a b extraA extraB before gap hv hgap ha hb
  refine ⟨receive_wave hv 0 extraA ha, ?_, ?_, ?_⟩
  · rw [leadWave_true, List.singleton_append, receive_low _ _ _ _ (lowPeriod_high t before)]
    exact receive_wave hv _ extraA ha
  · obtain ⟨low, hlow, e⟩ := receive_transmission hv 0 (wave t b extraB) ha (lowPeriod_high t extraA)
      (Nat.le_add_right ..)
    rw [wave, List.append_assoc, List.singleton_append, e, wave, receive_next _ hlow ha hb]
    exact congrArg (a :: ·) (receive_wave hv low extraB hb)
  · obtain ⟨low, hlow, e⟩ := receive_transmission hv (x := { high := false, ticks := gap }) 0 (dataWave t b) ha rfl
      hgap
    obtain ⟨low', -, e'⟩ := receive_dataWave hv (low := low) [] (.inr rfl) hb
    have hnext := receive_next [] hlow ha hb
    rw [List.append_nil] at hnext e'
    rw [e, hnext, e']
    simp [receive, hb]

/-! ### What stops a step -/

/-- A NEW beyond `MAX_PIXELS` is refused once its pin has been claimed (R131). -/
theorem execNew_tooMany {p n : Nat} {s : State} (hp : s.phase = .uninitialized) (hc : pinClaimable s.cfg p = true)
    (hm : p ∉ s.claimed) (hn : s.cfg.maxPixels.toNat < n) : execNew p n s = .refused .tooManyPixels := by
  simp [execNew, hp, claim_free hc hm, hn]

/-- A command answers, or it is a NEW beyond `MAX_PIXELS` and refused as such (R131, R220). -/
theorem exec_answers_or_refuses {s : State} (hs : s.Shape) (i : Instr) : (∃ t, exec i s = .next t) ∨
    ∃ p n, i = .new p n ∧ s.cfg.maxPixels.toNat < n ∧ exec i s = .refused .tooManyPixels := by
  cases i with
  | new p n =>
    rcases Nat.lt_or_ge s.cfg.maxPixels.toNat n with hn | hn
    · cases hp : s.phase with
      | ready => exact .inl ⟨_, execNew_ready hp⟩
      | released => exact .inl ⟨_, execNew_released hp⟩
      | uninitialized =>
        rcases claim_cases p s with ⟨hc, hm, -⟩ | ⟨hno, -⟩
        · exact .inr ⟨p, n, rfl, hn, execNew_tooMany hp hc hm hn⟩
        · exact .inl ⟨_, execNew_unavailable hp hno⟩
    · exact .inl (execNew_answers hn)
  | _ => exact .inl (exec_answers hs (by simp))

/-- Settles O55: of the things a step can do only the run of a command can stop it. -/
theorem stepAnswersFromTheInvariant : Obligations.StepAnswersFromTheInvariant := by
  unfold Obligations.StepAnswersFromTheInvariant
  rintro s ⟨-, hs⟩
  rcases step_cases s with ⟨-, e⟩ | ⟨_, -, e⟩ | ⟨_, -, e⟩ | ⟨_, _, -, e | e⟩ | ⟨_, _, -, -, e⟩ | ⟨_, _, -, -, e⟩ |
    ⟨_, _, -, -, e⟩ | ⟨w, rest, hi, -, ⟨_, -, e⟩ | ⟨i, hw, e⟩⟩
  · exact .inl ⟨_, e⟩
  · exact .inl ⟨_, e⟩
  · exact .inl ⟨_, e⟩
  · exact .inl ⟨_, e⟩
  · exact .inl ⟨_, e⟩
  · exact .inl ⟨_, e⟩
  · exact .inl ⟨_, e⟩
  · exact .inl ⟨_, e⟩
  · exact .inl ⟨_, e⟩
  · rw [e]
    rcases exec_answers_or_refuses (s := accept rest s) hs i with answers | ⟨p, n, rfl, hn, hrefused⟩
    · exact .inl answers
    · exact .inr ⟨hrefused, w, rest, p, n, hi, hw, hn⟩

/-- Settles O9: a reserved word does not decode, so the step answers it by its status alone. -/
theorem reservedOpcodeAnswersIllegalCommand : Obligations.ReservedOpcodeAnswersIllegalCommand := by
  unfold Obligations.ReservedOpcodeAnswersIllegalCommand
  exact ⟨rfl, fun s w rest hb hi hop => step_reserved hb hi (decode_reserved hop)⟩

/-! ### Decimal numerals in the text form -/

/-- The characters a numeral is written with (R100). -/
def numeralChar (c : Char) : Bool := c = '-' || c.isDigit

theorem printNat_ne_nil (n : Nat) : printNat n ≠ [] := Nat.toDigits_ne_nil

theorem isDigit_of_mem_printNat {n : Nat} {c : Char} (h : c ∈ printNat n) : c.isDigit = true :=
  Nat.isDigit_of_mem_toDigits (by decide) (by decide) h

theorem printInt_ne_nil (v : Int) : printInt v ≠ [] := by
  unfold printInt
  split
  · simp
  · exact printNat_ne_nil _

theorem numeralChar_of_mem_printInt {v : Int} {c : Char} (h : c ∈ printInt v) : numeralChar c = true := by
  unfold printInt at h
  split at h
  · rcases List.mem_cons.1 h with rfl | h
    · rfl
    · simp [numeralChar, isDigit_of_mem_printNat h]
  · simp [numeralChar, isDigit_of_mem_printNat h]

/-- A character of no numeral stands in none. -/
theorem not_mem_printInt (v : Int) {c : Char} (h : numeralChar c = false) : c ∉ printInt v := fun hc => by
  rw [numeralChar_of_mem_printInt hc] at h
  cases h

theorem parseDigits_eq {cs : List Char} (h : ∀ c ∈ cs, c.isDigit = true) (acc : Nat) :
    parseDigits acc cs = some (Nat.ofDigitChars 10 cs acc) := by
  induction cs generalizing acc with
  | nil => rfl
  | cons c cs ih =>
    obtain ⟨hc, hcs⟩ := List.forall_mem_cons.1 h
    rw [parseDigits, if_pos hc, ih hcs, Nat.ofDigitChars_cons, Nat.mul_comm]
    rfl

theorem parseDigits_printNat (n : Nat) : parseDigits 0 (printNat n) = some n := by
  rw [parseDigits_eq fun _ => isDigit_of_mem_printNat, printNat, Nat.ofDigitChars_ten_toDigits]

/-- Digits after a minus sign are a negative numeral (R100). -/
theorem parseInt_minus {cs : List Char} (h : cs ≠ []) :
    parseInt ('-' :: cs) = (parseDigits 0 cs).map fun n : Nat => -(n : Int) := by
  cases cs with
  | nil => exact absurd rfl h
  | cons c cs => rfl

/-- Digits alone are a numeral. -/
theorem parseInt_digits {cs : List Char} (h : cs ≠ []) (hdigits : ∀ c ∈ cs, c.isDigit = true) :
    parseInt cs = (parseDigits 0 cs).map fun n : Nat => (n : Int) := by
  unfold parseInt
  split
  · exact absurd rfl h
  · exact absurd (hdigits '-' (by simp)) (by decide)
  · exact absurd (hdigits '-' (by simp)) (by decide)
  · rfl

theorem parseInt_printInt (v : Int) : parseInt (printInt v) = some v := by
  unfold printInt
  split
  · rw [parseInt_minus (printNat_ne_nil _), parseDigits_printNat, Option.map_some]
    congr 1
    omega
  · rw [parseInt_digits (printNat_ne_nil _) fun _ => isDigit_of_mem_printNat, parseDigits_printNat, Option.map_some]
    congr 1
    omega

/-! ### Spaces and separators -/

theorem dropWhile_space {text : List Char} (h : text.head? ≠ some ' ') : text.dropWhile (· = ' ') = text := by
  cases text with
  | nil => rfl
  | cons c text => exact List.dropWhile_cons_of_neg (by simpa using h)

/-- A text without a space at either end is its own trim. -/
theorem trim_of_ends {text : List Char} (hfirst : text.head? ≠ some ' ') (hlast : text.getLast? ≠ some ' ') :
    trim text = text := by
  rw [trim, dropWhile_space hfirst, dropWhile_space (by rwa [List.head?_reverse]), List.reverse_reverse]

theorem trim_printInt (v : Int) : trim (printInt v) = printInt v :=
  have hspace : ' ' ∉ printInt v := not_mem_printInt v (by decide)
  trim_of_ends (fun h => hspace (List.mem_of_head? h)) fun h => hspace (List.mem_of_getLast? h)

@[simp] theorem trim_space (text : List Char) : trim (' ' :: text) = trim text := rfl

/-- Something is left of a text that begins with no space. -/
theorem trim_ne_nil {c : Char} {text : List Char} (hc : c ≠ ' ') : trim (c :: text) ≠ [] := by
  rw [trim, dropWhile_space (text := c :: text) (by simpa using hc)]
  intro h
  have hall := List.dropWhile_eq_nil_iff.1 (List.reverse_eq_nil_iff.1 h) c (by simp)
  exact hc (by simpa using hall)

theorem cutAt_ne_nil (sep : Char) (text : List Char) : cutAt sep text ≠ [] := by
  cases text with
  | nil => simp [cutAt]
  | cons c text =>
    unfold cutAt
    split
    · simp
    · split <;> simp

theorem cutAt_without {sep : Char} {text : List Char} (h : sep ∉ text) : cutAt sep text = [text] := by
  induction text with
  | nil => rfl
  | cons c text ih =>
    obtain ⟨hc, htext⟩ := not_or.1 (List.mem_cons.not.1 h)
    rw [cutAt, if_neg (Ne.symm hc), ih htext]

/-- The first separator ends the first piece. -/
theorem cutAt_append {sep : Char} {text : List Char} (h : sep ∉ text) (rest : List Char) :
    cutAt sep (text ++ sep :: rest) = text :: cutAt sep rest := by
  induction text with
  | nil => simp [cutAt]
  | cons c text ih =>
    obtain ⟨hc, htext⟩ := not_or.1 (List.mem_cons.not.1 h)
    rw [List.cons_append, cutAt, if_neg (Ne.symm hc), ih htext]

/-- A space before the first piece is trimmed away. -/
theorem cutAt_space (text : List Char) : (cutAt ',' (' ' :: text)).map trim = (cutAt ',' text).map trim := by
  rw [cutAt, if_neg (by decide)]
  cases h : cutAt ',' text with
  | nil => exact absurd h (cutAt_ne_nil ',' text)
  | cons first more => rfl

/-! ### Operands -/

/-- A numeral is not taken for an operand written by name, for it holds no equals sign. -/
theorem withoutName_printInt (name : List Char) (v : Int) : withoutName name (printInt v) = printInt v := by
  have noPrefix : ¬ (name ++ ['=']).isPrefixOf (printInt v) = true := fun h =>
    not_mem_printInt v (c := '=') (by decide) ((List.isPrefixOf_iff_prefix.1 h).subset (by simp))
  rw [withoutName, if_neg noPrefix]

theorem printOperands_cons_cons (v w : Int) (vs : List Int) :
    printOperands (v :: w :: vs) = printInt v ++ ',' :: ' ' :: printOperands (w :: vs) := rfl

/-- The pieces of the printed operands are their numerals. -/
theorem cutAt_printOperands (v : Int) (vs : List Int) :
    (cutAt ',' (printOperands (v :: vs))).map trim = (v :: vs).map printInt := by
  have comma (w : Int) : ',' ∉ printInt w := not_mem_printInt w (by decide)
  induction vs generalizing v with
  | nil => rw [printOperands, cutAt_without (comma v), List.map_singleton, trim_printInt, List.map_singleton]
  | cons w vs ih =>
    rw [printOperands_cons_cons, cutAt_append (comma v), List.map_cons, trim_printInt, cutAt_space, ih]
    rfl

/-- The printed operands begin with a numeral, so with no space. -/
theorem printOperands_cons (v : Int) (vs : List Int) :
    ∃ c rest, printOperands (v :: vs) = c :: rest ∧ c ≠ ' ' := by
  obtain ⟨c, cs, hv⟩ := List.exists_cons_of_ne_nil (printInt_ne_nil v)
  have hc : c ≠ ' ' := fun e => not_mem_printInt v (c := ' ') (by decide) (by simp [hv, e])
  cases vs with
  | nil => exact ⟨c, cs, hv, hc⟩
  | cons w vs => exact ⟨c, _, by rw [printOperands_cons_cons, hv, List.cons_append], hc⟩

theorem operandTexts_printOperands (vs : List Int) :
    (operandTexts (printOperands vs)).map trim = vs.map printInt := by
  cases vs with
  | nil => rfl
  | cons v vs =>
    obtain ⟨c, rest, hprint, hc⟩ := printOperands_cons v vs
    rw [operandTexts, if_neg (by rw [hprint]; exact trim_ne_nil hc), cutAt_printOperands]

/-- As many numerals as there are names are read as their values, whatever the names. -/
theorem parseOperands_numerals {names texts : List (List Char)} {vs : List Int} (hlen : names.length = vs.length)
    (htexts : texts.map trim = vs.map printInt) : parseOperands names texts = some vs := by
  induction vs generalizing names texts with
  | nil =>
    obtain rfl := List.length_eq_zero_iff.1 hlen
    obtain rfl := List.map_eq_nil_iff.1 htexts
    rfl
  | cons v vs ih =>
    obtain ⟨name, names, rfl⟩ := List.exists_cons_of_length_eq_add_one hlen
    obtain ⟨text, texts, rfl, htext, hmore⟩ := List.map_eq_cons_iff.1 htexts
    rw [parseOperands, htext, withoutName_printInt, parseInt_printInt, ih (by simpa using hlen) hmore]

/-! ### Commands -/

theorem commandName_chars (i : Instr) : ' ' ∉ commandName i ∧ '(' ∉ commandName i := by
  cases i <;> simp [commandName]

theorem operandNames_length (i : Instr) : (operandNames i).length = (operandsOf i).length := by cases i <;> rfl

/-- A command's name finds its kind, which reads the command's operands and makes the command of them. -/
theorem commandKinds_find (i : Instr) :
    ∃ kind, commandKinds.find? (fun k => decide (commandName k = commandName i)) = some kind ∧
      operandNames kind = operandNames i ∧ withOperands kind (operandsOf i) = some i := by
  cases i with
  | new p n => exact ⟨.new 0 0, rfl, rfl, by simp [withOperands, operandsOf]⟩
  | setPixel x r g b => exact ⟨.setPixel 0 0 0 0, rfl, rfl, rfl⟩
  | fillAll r g b => exact ⟨.fillAll 0 0 0, rfl, rfl, rfl⟩
  | clear => exact ⟨.clear, rfl, rfl, rfl⟩
  | showStrip => exact ⟨.showStrip, rfl, rfl, rfl⟩
  | release => exact ⟨.release, rfl, rfl, rfl⟩

theorem trim_printCommand (i : Instr) : trim (printCommand i) = printCommand i := by
  refine trim_of_ends ?_ ?_
  · cases i <;> simp [printCommand, commandName]
  · rw [printCommand, ← List.cons_append, ← List.append_assoc, List.getLast?_concat]
    decide

/-- The name ends at the first parenthesis. -/
theorem takeWhile_printCommand (i : Instr) : (printCommand i).takeWhile (· ≠ '(') = commandName i := by
  obtain ⟨-, hparen⟩ := commandName_chars i
  rw [printCommand, List.takeWhile_append_of_pos fun c hc => by simpa using ne_of_mem_of_not_mem hc hparen]
  simp

/-- Settles O7: name, operands and parentheses are found again where they were printed. -/
theorem commandTextReadsBack : Obligations.CommandTextReadsBack := by
  unfold Obligations.CommandTextReadsBack
  intro i
  obtain ⟨kind, hkind, hnames, hmake⟩ := commandKinds_find i
  have hoperands : parseOperands (operandNames kind) (operandTexts (printOperands (operandsOf i))) =
      some (operandsOf i) :=
    parseOperands_numerals (by rw [hnames, operandNames_length]) (operandTexts_printOperands _)
  have hrest : (printCommand i).drop (commandName i).length = '(' :: (printOperands (operandsOf i) ++ [')']) :=
    List.drop_left ..
  simp only [parseCommand, trim_printCommand, takeWhile_printCommand, hkind, hrest, List.getLast?_concat,
    List.dropLast_concat, if_true, hoperands, hmake]

end Sys2Proof.Machine
end

section
/-! Proofs, spec/40_pixel_buffer.md: the clamp of a channel, and what SET_PIXEL, FILL_ALL, CLEAR and a NEW beyond
`MAX_PIXELS` come to. -/

namespace Sys2Proof.Machine

/-! ### The clamp -/

/-- The value `clamp8` gives (R130). -/
theorem clamp8_toNat (v : Int) : ((clamp8 v).toNat : Int) = if v < 0 then 0 else if 255 < v then 255 else v := by
  split
  case isTrue hneg => simp [clamp8_below v hneg]
  case isFalse hneg =>
    split
    case isTrue hbig => simp [clamp8_above v hbig]
    case isFalse hbig =>
      rw [clamp8_inside v (by omega) (by omega), BitVec.toNat_ofNat]
      omega

/-- The clamp leaves every channel as it is. -/
theorem clamp8_channel (c : Channel) : clamp8 c.toNat = c := by
  have hlt : c.toNat < 256 := c.isLt
  rw [clamp8_inside c.toNat (by omega) (by omega), Int.toNat_natCast, BitVec.ofNat_toNat, BitVec.setWidth_eq]

/-- Settles O24: of the values the clamp gives it changes none. -/
theorem clampPinsToEightBits : Obligations.ClampPinsToEightBits := by
  unfold Obligations.ClampPinsToEightBits
  exact fun v => ⟨clamp8_toNat v, clamp8_channel (clamp8 v)⟩

/-! ### The buffer's commands -/

theorem pbFill_eq_replicate (r g b : Int) (buf : List Pixel) :
    pbFill r g b buf = List.replicate buf.length (clampPixel r g b) := List.map_const' ..

/-- The buffer of a `Ready` driver has `num_pixels` cells (R136). -/
theorem State.Shape.buf_length {s : State} {d : Driver} (hs : s.Shape) (hp : s.phase = .ready)
    (hd : s.driver = some d) : d.buf.length = d.numPixels := by
  obtain ⟨-, d', hd', hfit, -⟩ := (shape_ready hp).1 hs
  obtain rfl : d = d' := Option.some.inj (hd.symm.trans hd')
  obtain ⟨hlen, -⟩ := (driverFits_iff _ d).1 hfit
  exact hlen

/-- Settles O17: the pin is free, so the claim succeeds and the number of pixels is looked at. -/
theorem newBeyondMaxPixelsIsRefused : Obligations.NewBeyondMaxPixelsIsRefused := by
  unfold Obligations.NewBeyondMaxPixelsIsRefused
  exact fun _ _ _ hp hc hm hn => execNew_tooMany hp hc hm hn

/-- Settles O19, on either side of the bounds check. -/
theorem setPixelStoresOrReportsIndex : Obligations.SetPixelStoresOrReportsIndex := by
  unfold Obligations.SetPixelStoresOrReportsIndex
  intro i r g b s d hp hd
  refine (execSetPixel_ready hp hd).trans (congrArg _ ?_)
  by_cases hvalid : 0 ≤ i ∧ i < d.numPixels
  · rw [if_pos ((indexValid_iff ..).2 hvalid), if_pos hvalid]
    rfl
  · rw [if_neg (mt (indexValid_iff ..).1 hvalid), if_neg hvalid]
    rfl

/-- Settles O21: the fill replaces as many cells as the driver has pixels. -/
theorem fillAllStoresOneColourEverywhere : Obligations.FillAllStoresOneColourEverywhere := by
  unfold Obligations.FillAllStoresOneColourEverywhere
  intro r g b s d hs hp hd
  refine (execFillAll_ready hp hd).trans ?_
  rw [pbFill_eq_replicate, hs.buf_length hp hd]
  rfl

/-- Settles O22: the buffer has as many black cells as the driver has pixels. -/
theorem clearBlackensEveryCell : Obligations.ClearBlackensEveryCell := by
  unfold Obligations.ClearBlackensEveryCell
  intro s d hs hp hd
  refine (execClear_ready hp hd).trans ?_
  rw [hs.buf_length hp hd]
  rfl

end Sys2Proof.Machine
end

section
/-! Proofs, spec/41_strip_driver.md: what SHOW, NEW and RELEASE come to by the draw of their transmission, the phase
transitions, a cell read after SET_PIXEL, and the wire history as a receiver reads it. -/

namespace Sys2Proof.Machine

/-! ### The draw decides how a commit ends -/

/-- What happens without a fault and what happens after `k` bits, each under its own draw (R39). -/
theorem outcome_by_draw {s : State} {P : Prop} {Q : Nat → Prop}
    (h : (nextDraw s = none ∧ P) ∨ ∃ k, nextDraw s = some k ∧ Q k) :
    (nextDraw s = none → P) ∧ ∀ k, nextDraw s = some k → Q k := by
  rcases h with ⟨hn, hP⟩ | ⟨k, hk, hQ⟩
  · exact ⟨fun _ => hP, by simp [hn]⟩
  · refine ⟨by simp [hk], fun k' hk' => ?_⟩
    obtain rfl : k = k' := Option.some.inj (hk.symm.trans hk')
    exact hQ

/-- A black pixel is 24 bits of 0 in every channel order. -/
theorem pixelFrame_black (o : ChannelOrder) : pixelFrame o Pixel.black = List.replicate 24 false := by
  cases o <;> decide

/-- The bits of an all-off transmission (R152, R161). -/
theorem wireBits_black (o : ChannelOrder) (n : Nat) :
    wireBits o (List.replicate n Pixel.black) = List.replicate (24 * n) false := by
  induction n with
  | zero => rfl
  | succ n ih =>
    rw [List.replicate_succ, wireBits_cons, pixelFrame_black, ih, List.replicate_append_replicate, Nat.mul_succ,
      Nat.add_comm]

/-! ### The phase transitions -/

/-- The construction ends `Ready` exactly if it answers `Ok` (R152, R153). -/
theorem construct_phase (p n : Nat) (buf : List Pixel) (s : State) :
    (construct p n buf s).phase = if (construct p n buf s).status = .ok then .ready else s.phase := by
  rcases construct_cases p n buf s with ⟨-, e⟩ | ⟨k, -, e⟩ <;> rw [e] <;> rfl

/-- NEW moves the phase where it finds no driver and answers `Ok` (R163). -/
theorem execNew_phase {p n : Nat} {s t : State} (h : execNew p n s = .next t) :
    t.phase = if s.phase = .uninitialized ∧ t.status = .ok then .ready else s.phase := by
  rcases execNew_cases h with ⟨-, rfl⟩ | ⟨-, rfl⟩ | ⟨-, -, rfl⟩ | ⟨-, -, -, -, rfl⟩ | ⟨hp, -, -, -, -, rfl⟩
  · simp
  · simp
  · simp
  · simp
  · simpa [hp] using construct_phase p n _ _

@[simp] theorem showBuffer_phase (d : Driver) (s : State) : (showBuffer d s).phase = s.phase := by
  rcases showBuffer_cases d s with ⟨-, e⟩ | ⟨_, -, e⟩ <;> rw [e]

@[simp] theorem tearDown_phase (d : Driver) (s : State) : (tearDown d s).phase = .released := by
  rcases tearDown_cases d s with ⟨-, e⟩ | ⟨_, -, e⟩ <;> rw [e]

/-- Of the other commands RELEASE of a `Ready` driver moves the phase, and no other does (R163). -/
theorem exec_phase {i : Instr} {s t : State} (hi : ∀ p n, i ≠ .new p n) (h : exec i s = .next t) :
    t.phase = if s.phase = .ready ∧ i = .release then .released else s.phase := by
  rcases exec_cases h with ⟨p, n, rfl, -⟩ | ⟨hp, -, rfl⟩ | ⟨hp, -, -, rfl⟩ | ⟨hp, -, rfl⟩ | ⟨hp, d, -, body⟩
  · exact absurd rfl (hi p n)
  · simp [hp]
  · simp [hp]
  · simp [hp]
  · rcases body with ⟨x, r, g, b, rfl, rfl⟩ | ⟨r, g, b, rfl, rfl⟩ | ⟨rfl, rfl⟩ | ⟨rfl, -, rfl⟩ | ⟨rfl, -, rfl⟩
    · split <;> simp
    · simp
    · simp
    · simp
    · simp [hp]

@[simp] theorem resetDuring_phase (w : CmdWord) (s : State) : (resetDuring w s).phase = .uninitialized := by
  obtain ⟨sh, dr, fi, e, -⟩ := resetDuring_eq w s
  rw [e]
  rfl

/-- A reset inside a command, or inside none if the block was busy already (R250, R252). -/
theorem step_resetDuring {s : State} {w : CmdWord} {rest : List Input} (hi : s.inputs = .resetDuring w :: rest) :
    step s = .next (resetBlock { s with inputs := rest }) ∨
      step s = .next (resetDuring w { s with inputs := rest }) := by
  cases hb : s.busy with
  | true => exact .inl (by simp [step, nextAction, hi, hb])
  | false => exact .inr (by simp [step, nextAction, hi, hb])

/-- Settles O15: NEW and RELEASE are the commands that move the phase, and each form of reset ends in
`Uninitialized`. -/
theorem phaseTransitionsAreExactlyThese : Obligations.PhaseTransitionsAreExactlyThese := by
  unfold Obligations.PhaseTransitionsAreExactlyThese
  refine ⟨fun i s t h => ?_, fun s t x rest hi hx h => ?_⟩
  · by_cases hnew : ∃ p n, i = .new p n
    · obtain ⟨p, n, rfl⟩ := hnew
      rw [execNew_phase h]
      refine ⟨fun hp _ hok => by simp [hp, hok], fun hp hno => ?_, fun hp => by simp [hp], fun hp => by simp [hp]⟩
      have hst : t.status ≠ .ok := fun hok => hno ⟨⟨p, n, rfl⟩, hok⟩
      simp [hp, hst]
    · rw [exec_phase (fun p n e => hnew ⟨p, n, e⟩) h]
      exact ⟨fun _ hi => absurd hi hnew, fun hp _ => by simp [hp], fun hp => by simp [hp], fun hp => by simp [hp]⟩
  · rcases hx with rfl | rfl | ⟨w, rfl⟩
    · cases (step_reset hi).symm.trans h
      rfl
    · cases (step_powerCycle hi).symm.trans h
      rfl
    · rcases step_resetDuring hi with e | e
      · cases e.symm.trans h
        rfl
      · cases e.symm.trans h
        exact resetDuring_phase w _

/-! ### NEW -/

/-- Settles O16: the claim's answer, the number of pixels and the draw of the first commit tell its paths apart. -/
theorem newClaimsConstructsAndCommits : Obligations.NewClaimsConstructsAndCommits := by
  unfold Obligations.NewClaimsConstructsAndCommits
  intro p n s
  obtain ⟨hok, hfault⟩ := outcome_by_draw (construct_cases p n (List.replicate n Pixel.black)
    { s with claimed := insertPin p s.claimed, ownsLine := true })
  refine ⟨execNew_ready, execNew_released, execNew_unavailable, fun hp hc hm hn => ?_,
    fun hp hc hm h1 hmax hdraw => ?_, fun hp hc hm h1 hmax k hdraw => ?_⟩
  · subst hn
    exact execNew_zero hp hc hm
  · refine (execNew_constructs hp hc hm h1 hmax).trans ?_
    rw [hok hdraw, wireBits_black]
    rfl
  · refine (execNew_constructs hp hc hm h1 hmax).trans ?_
    rw [hfault k hdraw, wireBits_black, List.take_replicate, removePin_insertPin p s.claimed hm]
    rfl

/-- Settles O18: what the shape says of a block without a driver is what an error leaves, or puts back. -/
theorem failedNewLeavesNoDriver : Obligations.FailedNewLeavesNoDriver := by
  unfold Obligations.FailedNewLeavesNoDriver
  intro p n s t hs hp h hst
  obtain ⟨-, hd, ho, hl, -⟩ := (shape_uninitialized hp).1 hs
  rcases execNew_cases h with ⟨hp', -⟩ | ⟨hp', -⟩ | ⟨-, -, rfl⟩ | ⟨-, -, -, -, rfl⟩ | ⟨-, -, hm, -, -, rfl⟩
  · simp [hp] at hp'
  · simp [hp] at hp'
  · exact ⟨hp, hd, ho, rfl, hl, rfl, .inl rfl⟩
  · exact ⟨hp, hd, rfl, rfl, rfl, rfl, .inl rfl⟩
  · rcases construct_cases p n (List.replicate n Pixel.black)
      { s with claimed := insertPin p s.claimed, ownsLine := true } with ⟨-, e⟩ | ⟨k, -, e⟩
    · exact absurd (congrArg State.status e) hst
    · rw [e]
      exact ⟨hp, rfl, rfl, rfl, rfl, removePin_insertPin p s.claimed hm, .inr ⟨rfl, _, rfl⟩⟩

/-! ### SET_PIXEL and CLEAR -/

@[simp] theorem dbgBuf_respond (st : Status) (s : State) (j : Nat) : dbgBuf (respond st s) j = dbgBuf s j := rfl

theorem dbgBuf_of_driver {s : State} {d : Driver} (hd : s.driver = some d) (j : Nat) : dbgBuf s j = d.buf[j]? := by
  simp [dbgBuf, hd]

@[simp] theorem dbgBuf_setBuffer (d : Driver) (buf : List Pixel) (s : State) (j : Nat) :
    dbgBuf (setBuffer d buf s) j = buf[j]? := rfl

/-- The clamp as the nearest value from 0 to 255 (R130). -/
theorem clamp8_eq_max_min (v : Int) : ((clamp8 v).toNat : Int) = max 0 (min 255 v) := by
  rw [clamp8_toNat]
  omega

/-- Settles O20: a valid index is inside the buffer, whose length is `num_pixels`. -/
theorem setPixelThenReadGivesClampedTriple : Obligations.SetPixelThenReadGivesClampedTriple := by
  unfold Obligations.SetPixelThenReadGivesClampedTriple
  intro i r g b s d hs hp hd h0 hn
  have hlen := hs.buf_length hp hd
  have hin : i.toNat < d.buf.length := by omega
  have hexec : exec (.setPixel i r g b) s =
      .next (respond .ok (setBuffer d (d.buf.set i.toNat (clampPixel r g b)) s)) :=
    (execSetPixel_ready hp hd).trans (by rw [if_pos ((indexValid_iff ..).2 ⟨h0, hn⟩)])
  refine ⟨_, hexec, rfl, ⟨clampPixel r g b, ?_, clamp8_eq_max_min r, clamp8_eq_max_min g, clamp8_eq_max_min b⟩,
    fun j hj => ?_⟩
  · simp [hin]
  · simp [dbgBuf_of_driver hd, hj.symm]

theorem clampPixel_zero : clampPixel 0 0 0 = Pixel.black := by decide

/-- Settles O23: CLEAR is defined as the fill with zeros, and the dispatch is the same. -/
theorem clearIsFillAllZero : Obligations.ClearIsFillAllZero := by
  unfold Obligations.ClearIsFillAllZero
  refine fun s => ⟨rfl, fun hp => inReady_uninitialized _ hp, fun d hp hd => ?_, fun hp => inReady_released _ hp⟩
  refine (execFillAll_ready (r := 0) (g := 0) (b := 0) hp hd).trans ?_
  simp only [pbFill, clampPixel_zero]
  rfl

/-! ### SHOW -/

/-- Settles O28, by the draw of the one transmission. -/
theorem showTransmitsTheWholeBuffer : Obligations.ShowTransmitsTheWholeBuffer := by
  unfold Obligations.ShowTransmitsTheWholeBuffer
  intro s d hp hd ho
  obtain ⟨hok, hfault⟩ := outcome_by_draw (showBuffer_cases d s)
  have hexec : exec .showStrip s = .next (showBuffer d s) := execShowStrip_ready hp hd ho
  exact ⟨fun hn => hexec.trans (congrArg _ (hok hn)), fun k hk => hexec.trans (congrArg _ (hfault k hk))⟩

@[simp] theorem showBuffer_ownsLine (d : Driver) (s : State) : (showBuffer d s).ownsLine = s.ownsLine := by
  rcases showBuffer_cases d s with ⟨-, e⟩ | ⟨_, -, e⟩ <;> rw [e]

/-- SHOW puts on the wire the buffer's bits or, after a fault, the first of them (R159, R187). -/
theorem showBuffer_wire_prefix (d : Driver) (s : State) :
    ∃ x, (showBuffer d s).wire = s.wire ++ [x] ∧ x.bits <+: wireBits s.cfg.channelOrder d.buf := by
  rcases showBuffer_cases d s with ⟨-, e⟩ | ⟨k, -, e⟩ <;> rw [e]
  · exact ⟨_, rfl, List.prefix_rfl⟩
  · exact ⟨_, rfl, List.take_prefix k _⟩

/-- Settles O29: the first SHOW leaves all that the second one reads but the draw. -/
theorem showAgainSendsTheBufferAgain : Obligations.ShowAgainSendsTheBufferAgain := by
  unfold Obligations.ShowAgainSendsTheBufferAgain
  intro s t d hp hd ho h hn
  cases (execShowStrip_ready hp hd ho).symm.trans h
  have hd' : (showBuffer d s).driver = some d := (showBuffer_driver d s).trans hd
  have hexec : exec .showStrip (showBuffer d s) = .next (showBuffer d (showBuffer d s)) :=
    execShowStrip_ready ((showBuffer_phase d s).trans hp) hd' ((showBuffer_ownsLine d s).trans ho)
  obtain ⟨x, hw, hx⟩ := showBuffer_wire_prefix d s
  have hsecond := (outcome_by_draw (showBuffer_cases d (showBuffer d s))).1 hn
  refine ⟨_, x, hexec, ?_, hd', ?_, hx⟩
  · rw [hsecond]
  · rw [hsecond]
    simp [hw]

/-! ### RELEASE -/

theorem execRelease_released {s : State} (hp : s.phase = .released) : execRelease s = .next (respond .ok s) := by
  simp [execRelease, hp]

theorem execRelease_uninitialized {s : State} (hp : s.phase = .uninitialized) :
    execRelease s = .next (respond .wrongPhase s) := by
  simp [execRelease, hp]

/-- Settles O14. -/
theorem secondReleaseIsNoOp : Obligations.SecondReleaseIsNoOp := by
  unfold Obligations.SecondReleaseIsNoOp
  exact fun _ hp => execRelease_released hp

/-- What becomes of the commit shows in the status, the wire and the strip only (R161). -/
theorem tearDown_eq (d : Driver) (s : State) :
    tearDown d s = { s with
      phase := .released, ownsLine := false, line := .z
      driver := some { d with buf := List.replicate d.buf.length Pixel.black }
      claimed := removePin d.pin s.claimed, status := (tearDown d s).status, busy := false
      rsp := some (tearDown d s).status, wire := (tearDown d s).wire, shown := (tearDown d s).shown
      draws := s.draws.tail, freeIndex := s.freeIndex + 1 } := by
  rcases tearDown_cases d s with ⟨-, e⟩ | ⟨_, -, e⟩ <;> rw [e]

/-- Settles O31: the whole effect of the tear-down but for the draw, and then by the draw. -/
theorem releaseBlackensCommitsAndUnclaims : Obligations.ReleaseBlackensCommitsAndUnclaims := by
  unfold Obligations.ReleaseBlackensCommitsAndUnclaims
  refine ⟨fun s d hs hp hd => ?_, fun s hp => execRelease_uninitialized hp⟩
  obtain ⟨-, -, -, -, -, ho, -⟩ := (shape_ready hp).1 hs
  have hlen := hs.buf_length hp hd
  obtain ⟨hok, hfault⟩ := outcome_by_draw (tearDown_cases d s)
  refine ⟨_, execRelease_ready hp hd ho, ?_, fun hn => ?_, fun k hk => ?_⟩
  · refine (tearDown_eq d s).trans ?_
    rw [hlen]
    rfl
  · rw [hok hn, hlen, wireBits_black]
    exact ⟨rfl, rfl⟩
  · rw [hfault k hk, hlen, wireBits_black, List.take_replicate]
    exact ⟨rfl, rfl⟩

/-! ### The frame of the committing commands -/

/-- SHOW writes the line and what it carries, the draws and the answer (R159). -/
theorem showBuffer_eq (d : Driver) (s : State) :
    showBuffer d s = { s with
      line := (showBuffer d s).line, wire := (showBuffer d s).wire, shown := (showBuffer d s).shown
      draws := (showBuffer d s).draws, freeIndex := (showBuffer d s).freeIndex
      status := (showBuffer d s).status, busy := (showBuffer d s).busy, rsp := (showBuffer d s).rsp } := by
  rcases showBuffer_cases d s with ⟨-, e⟩ | ⟨_, -, e⟩ <;> rw [e]

/-- Of the allocator's pins NEW takes and hands back its own only (R152). -/
theorem mem_claimed_execNew {p n q : Nat} {s t : State} (hq : q ≠ p) (h : execNew p n s = .next t) :
    q ∈ t.claimed ↔ q ∈ s.claimed := by
  rcases execNew_cases h with ⟨-, rfl⟩ | ⟨-, rfl⟩ | ⟨-, -, rfl⟩ | ⟨-, -, -, -, rfl⟩ | ⟨-, -, -, -, -, rfl⟩
  · rfl
  · rfl
  · rfl
  · rfl
  · rcases construct_cases p n (List.replicate n Pixel.black)
      { s with claimed := insertPin p s.claimed, ownsLine := true } with ⟨-, e⟩ | ⟨k, -, e⟩ <;> simp [e, hq]

/-- RELEASE answers and changes nothing, or it tears down the driver of a `Ready` block (R161, R162). -/
theorem execRelease_next {s t : State} (h : execRelease s = .next t) :
    (∃ st, t = respond st s) ∨ ∃ d, s.driver = some d ∧ t = tearDown d s := by
  rcases exec_cases (i := .release) h with ⟨_, _, hi, -⟩ | ⟨-, -, e⟩ | ⟨-, -, hi, -⟩ | ⟨-, -, e⟩ | ⟨-, d, hd, body⟩
  · cases hi
  · exact .inl ⟨_, e⟩
  · exact absurd rfl hi
  · exact .inl ⟨_, e⟩
  · obtain ⟨-, e⟩ : s.ownsLine = true ∧ t = tearDown d s := by simpa using body
    exact .inr ⟨d, hd, e⟩

/-- Settles O30: what each of the three can come to. -/
theorem committingCommandsFrame : Obligations.CommittingCommandsFrame := by
  unfold Obligations.CommittingCommandsFrame
  refine ⟨fun s t h => ?_, fun p n s t h => ⟨execNew_inputs h, execNew_cfg h, fun q hq => mem_claimed_execNew hq h⟩,
    fun s t h => ⟨exec_inputs h, exec_cfg h, ?_⟩⟩
  · rcases inReady_next h with ⟨-, rfl⟩ | ⟨-, rfl⟩ | ⟨-, d, -, hb⟩
    · rfl
    · rfl
    · obtain ⟨-, e⟩ := withLine_next hb
      cases e
      exact showBuffer_eq d s
  · rcases execRelease_next h with ⟨st, rfl⟩ | ⟨d, hd, rfl⟩
    · exact ⟨fun _ _ => Iff.rfl, fun d hd => ⟨d, hd, rfl, rfl⟩⟩
    · refine ⟨fun q hq => ?_, fun d' hd' => ?_⟩
      · rw [tearDown_eq]
        simp [hq d hd]
      · obtain rfl : d = d' := Option.some.inj (hd.symm.trans hd')
        exact ⟨_, tearDown_driver d s, rfl, rfl⟩

/-! ### The wire history as a receiver reads it -/

/-- The closing gap of a complete transmission is a low period like the one before a first transmission. -/
theorem transmissionWave_eq (t : Timing) (x : Transmission) (extra : Nat) :
    transmissionWave t x extra = dataWave t x.bits ++ leadWave t x.complete extra := by
  unfold transmissionWave
  cases x.complete with
  | true => rfl
  | false => exact (List.append_nil _).symm

/-- A low period, where there is one, makes the line low for `TRES` or more; where there is none, nothing changes. -/
theorem receive_leadWave (t : Timing) (bits : List Bool) (low : Nat) (lead : Bool) (extra : Nat) (more : List Segment) :
    ∃ low', (lead = true ∨ t.tres ≤ low → t.tres ≤ low') ∧
      receive t bits low (leadWave t lead extra ++ more) = receive t bits low' more := by
  cases lead with
  | true => exact ⟨low + (t.tres + extra), fun _ => by omega, receive_low _ _ _ _ (lowPeriod_high t extra)⟩
  | false => exact ⟨low, by simp, rfl⟩

/-- Bits that follow a gap, or that nothing came before, do not join the bits before them (R106, R183). -/
theorem receive_dataWave_afresh {t : Timing} (hv : t.valid = true) {bits data : List Bool} {low : Nat}
    (more : List Segment) (h : bits = [] ∨ t.tres ≤ low) (hdata : data ≠ []) :
    ∃ low', receive t bits low (dataWave t data ++ more) =
      [bits].filter (fun bits => !bits.isEmpty) ++ receive t data low' more := by
  obtain ⟨low', -, e⟩ := receive_dataWave hv (low := low) more (.inr rfl) hdata
  refine ⟨low', ?_⟩
  by_cases hbits : bits = []
  · subst hbits
    exact e
  · rw [receive_next more (h.resolve_left hbits) hbits hdata, e]
    simp [hbits]

/-- A low period stands between the bits already read and the history, or the first entry brings one with it, so each
entry is read by itself (R183, R188). -/
theorem receive_historyWave {t : Timing} (hv : t.valid = true) (entries : List (Transmission × Slack))
    {bits : List Bool} {low : Nat} {lead : Bool} (h : bits = [] ∨ lead = true ∨ t.tres ≤ low) :
    receive t bits low (historyWave t lead entries) =
      (bits :: entries.map fun e => e.1.bits).filter fun bits => !bits.isEmpty := by
  induction entries generalizing bits low lead with
  | nil => cases bits <;> rfl
  | cons entry entries ih =>
    obtain ⟨x, k⟩ := entry
    rw [historyWave_cons, transmissionWave_eq, List.append_assoc, List.append_assoc]
    obtain ⟨afterLead, hlead, readLead⟩ := receive_leadWave t bits low lead k.lead
      (dataWave t x.bits ++ (leadWave t x.complete k.gap ++ historyWave t (!x.complete) entries))
    rw [readLead]
    have closed {low' : Nat} : (x.complete = true → t.tres ≤ low') → (!x.complete) = true ∨ t.tres ≤ low' := by
      simp [bool_imp_iff]
    by_cases hx : x.bits = []
    · obtain ⟨afterGap, hgap, readGap⟩ := receive_leadWave t bits afterLead x.complete k.gap
        (historyWave t (!x.complete) entries)
      rw [hx, dataWave_nil, List.nil_append, readGap, ih (.inr (closed fun hc => hgap (.inl hc)))]
      simp [List.filter_cons, hx]
    · obtain ⟨afterData, readData⟩ := receive_dataWave_afresh hv
        (leadWave t x.complete k.gap ++ historyWave t (!x.complete) entries) (h.imp_right hlead) hx
      obtain ⟨afterGap, hgap, readGap⟩ := receive_leadWave t x.bits afterData x.complete k.gap
        (historyWave t (!x.complete) entries)
      rw [readData, readGap, ih (.inr (closed fun hc => hgap (.inl hc))), ← List.filter_append]
      rfl

/-- Settles O45: since reset nothing has been read, and the first entry brings its low period. -/
theorem historyIsReadEntryByEntry : Obligations.HistoryIsReadEntryByEntry := by
  unfold Obligations.HistoryIsReadEntryByEntry
  exact fun t entries hv => receive_historyWave hv entries (.inl rfl)

end Sys2Proof.Machine
end

section
/-! Proofs, spec/42_serializer.md: what Transmit comes to when no fault is drawn, and what a fault leaves on the wire. -/

namespace Sys2Proof.Machine

/-- Settles O37: with no fault drawn, the complete case of `transmit_cases` is the only one left. -/
theorem transmitRecordsTheWholeBuffer : Obligations.TransmitRecordsTheWholeBuffer := by
  unfold Obligations.TransmitRecordsTheWholeBuffer
  intro seq s hdraw
  obtain ⟨-, e⟩ := (transmit_cases seq s).resolve_right (by simp [hdraw])
  exact e

/-- Within a transmission's 24 bits per pixel, its first `k` bits are `k` bits (R110). -/
theorem wireBits_take_length (o : ChannelOrder) {seq : List Pixel} {k : Nat} (hk : k ≤ 24 * seq.length) :
    ((wireBits o seq).take k).length = k :=
  List.length_take_of_le (by rwa [wireBits_length])

/-- Settles O38: the entry is the first `k` bits of the transmission, by the faulted case of `transmit_cases`. -/
theorem faultRecordsTheBitsSent : Obligations.FaultRecordsTheBitsSent := by
  unfold Obligations.FaultRecordsTheBitsSent
  intro seq s k hdraw hk
  obtain ⟨k', hdraw', e⟩ := (transmit_cases seq s).resolve_left (by simp [hdraw])
  obtain rfl : k = k' := Option.some.inj (hdraw.symm.trans hdraw')
  rw [e]
  exact ⟨_, rfl, rfl, rfl, wireBits_take_length _ hk, List.take_prefix k _, rfl, rfl⟩

end Sys2Proof.Machine
end

section
/-! Proofs, spec/60_exceptions.md: the cause of each error, what an error leaves as it was, and the platform's
unclaim. -/

namespace Sys2Proof.Machine

/-! ### A commit that does not end `Ok` -/

/-- A commit that drew a fault: the answer is `TransmitFault` and the wire has one incomplete entry more (R187, R215). -/
def EndsInFault (s t : State) : Prop :=
  t.status = .transmitFault ∧ (∃ k, nextDraw s = some k) ∧
    ∃ bits, t.wire = s.wire ++ [{ bits := bits, complete := false }]

/-- A construction that fails has drawn a fault, and it is undone (R152, R153). -/
theorem construct_ok_or_fault (p n : Nat) (buf : List Pixel) (s : State) :
    (construct p n buf s).status = .ok ∨
    (EndsInFault s (construct p n buf s) ∧ (construct p n buf s).driver = none ∧
      p ∉ (construct p n buf s).claimed ∧ (construct p n buf s).ownsLine = false) := by
  rcases construct_cases p n buf s with ⟨-, e⟩ | ⟨k, hk, e⟩ <;> rw [e]
  · exact .inl rfl
  · exact .inr ⟨⟨rfl, ⟨k, hk⟩, _, rfl⟩, rfl, by simp, rfl⟩

theorem showBuffer_ok_or_fault (d : Driver) (s : State) :
    (showBuffer d s).status = .ok ∨ EndsInFault s (showBuffer d s) := by
  rcases showBuffer_cases d s with ⟨-, e⟩ | ⟨k, hk, e⟩ <;> rw [e]
  · exact .inl rfl
  · exact .inr ⟨rfl, ⟨k, hk⟩, _, rfl⟩

theorem tearDown_ok_or_fault (d : Driver) (s : State) :
    (tearDown d s).status = .ok ∨ EndsInFault s (tearDown d s) := by
  rcases tearDown_cases d s with ⟨-, e⟩ | ⟨k, hk, e⟩ <;> rw [e]
  · exact .inl rfl
  · exact .inr ⟨rfl, ⟨k, hk⟩, _, rfl⟩

/-! ### Each error has its cause -/

/-- What must be so for a command to answer a status (R211 to R218); `Ok` is no error and asks nothing. -/
def statusCause (i : Instr) (s : State) : Status → Prop
  | .ok => True
  | .invalidConfiguration =>
    s.phase = .uninitialized ∧ ∃ p, i = .new p 0 ∧ pinClaimable s.cfg p = true ∧ p ∉ s.claimed
  | .peripheralUnavailable =>
    s.phase = .uninitialized ∧ ∃ p n, i = .new p n ∧ (pinClaimable s.cfg p = false ∨ p ∈ s.claimed)
  | .indexOutOfRange =>
    s.phase = .ready ∧ ∃ x r g b d, i = .setPixel x r g b ∧ s.driver = some d ∧
      (x < 0 ∨ (d.numPixels : Int) ≤ x)
  | .useAfterRelease => s.phase = .released ∧ i ≠ .release
  | .transmitFault =>
    (∃ k, nextDraw s = some k) ∧
      ((s.phase = .uninitialized ∧ ∃ p n, i = .new p n) ∨ (s.phase = .ready ∧ (i = .showStrip ∨ i = .release)))
  | .wrongPhase => (s.phase = .uninitialized ∧ ∀ p n, i ≠ .new p n) ∨ (s.phase = .ready ∧ ∃ p n, i = .new p n)
  | .illegalCommand => False

/-- A commit, of a command that may commit in this phase, answers `Ok` or the fault it drew (R215). -/
theorem statusCause_of_commit {i : Instr} {s t : State} (h : t.status = .ok ∨ EndsInFault s t)
    (hi : (s.phase = .uninitialized ∧ ∃ p n, i = .new p n) ∨ (s.phase = .ready ∧ (i = .showStrip ∨ i = .release))) :
    statusCause i s t.status := by
  rcases h with hok | ⟨hfault, hdraw, -⟩
  · rw [hok]
    trivial
  · rw [hfault]
    exact ⟨hdraw, hi⟩

theorem execNew_statusCause {p n : Nat} {s t : State} (h : execNew p n s = .next t) :
    statusCause (.new p n) s t.status := by
  rcases execNew_cases h with ⟨hp, rfl⟩ | ⟨hp, rfl⟩ | ⟨hp, hno, rfl⟩ | ⟨hp, hc, hm, rfl, rfl⟩ | ⟨hp, -, -, -, -, rfl⟩
  · exact .inr ⟨hp, p, n, rfl⟩
  · exact ⟨hp, by simp⟩
  · exact ⟨hp, p, n, rfl, hno⟩
  · exact ⟨hp, p, rfl, hc, hm⟩
  · exact statusCause_of_commit ((construct_ok_or_fault p n _ _).imp_right And.left) (.inl ⟨hp, p, n, rfl⟩)

/-- An index that the bounds check rejects is below 0 or not below `num_pixels` (R62). -/
theorem index_outside {x : Int} {n : Nat} (h : ¬ indexValid x n = true) : x < 0 ∨ (n : Int) ≤ x := by
  rw [indexValid_iff] at h
  omega

theorem exec_statusCause {i : Instr} {s t : State} (h : exec i s = .next t) : statusCause i s t.status := by
  rcases exec_cases h with ⟨p, n, rfl, hn⟩ | ⟨hp, hi, rfl⟩ | ⟨hp, -, hi, rfl⟩ | ⟨-, -, rfl⟩ | ⟨hp, d, hd, body⟩
  · exact execNew_statusCause hn
  · exact .inl ⟨hp, hi⟩
  · exact ⟨hp, hi⟩
  · trivial
  · rcases body with ⟨x, r, g, b, rfl, rfl⟩ | ⟨r, g, b, rfl, rfl⟩ | ⟨rfl, rfl⟩ | ⟨rfl, -, rfl⟩ | ⟨rfl, -, rfl⟩
    · split
      · trivial
      · exact ⟨hp, x, r, g, b, d, rfl, hd, index_outside ‹_›⟩
    · trivial
    · trivial
    · exact statusCause_of_commit (showBuffer_ok_or_fault d s) (.inr ⟨hp, .inl rfl⟩)
    · exact statusCause_of_commit (tearDown_ok_or_fault d s) (.inr ⟨hp, .inr rfl⟩)

/-- Settles O33: the cause of the status answered, read at each status. -/
theorem everyErrorHasItsCause : Obligations.EveryErrorHasItsCause := by
  unfold Obligations.EveryErrorHasItsCause
  intro i s t h
  have cause {st : Status} (hst : t.status = st) : statusCause i s st := hst ▸ exec_statusCause h
  exact ⟨cause, cause, cause, cause, cause, cause, cause⟩

/-! ### An error is precise -/

/-- A NEW that fails without a fault leaves the block as it was, for what it took it hands back (R152, R219). -/
theorem execNew_error {p n : Nat} {s t : State} (hs : s.Shape) (h : execNew p n s = .next t) (hst : t.status ≠ .ok) :
    (∃ st, st ≠ .transmitFault ∧ t = respond st s) ∨
    (EndsInFault s t ∧ t.driver = none ∧ p ∉ t.claimed ∧ t.ownsLine = false) := by
  rcases execNew_cases h with ⟨-, rfl⟩ | ⟨-, rfl⟩ | ⟨-, -, rfl⟩ | ⟨hp, -, -, -, rfl⟩ | ⟨-, -, -, -, -, rfl⟩
  · exact .inl ⟨_, by decide, rfl⟩
  · exact .inl ⟨_, by decide, rfl⟩
  · exact .inl ⟨_, by decide, rfl⟩
  · obtain ⟨-, -, ho, hl, -⟩ := (shape_uninitialized hp).1 hs
    exact .inl ⟨.invalidConfiguration, by decide, by rw [← ho, ← hl]⟩
  · exact .inr ((construct_ok_or_fault p n _ _).resolve_left hst)

/-- Everything an error can leave behind (R219): nothing but its answer, or what a fault leaves in each of the three
commands that commit. -/
theorem exec_error {i : Instr} {s t : State} (hs : s.Shape) (h : exec i s = .next t) (hst : t.status ≠ .ok) :
    (∃ st, st ≠ .transmitFault ∧ t = respond st s) ∨
    (EndsInFault s t ∧
      ((∃ p n, i = .new p n ∧ t.driver = none ∧ p ∉ t.claimed ∧ t.ownsLine = false) ∨
       (i = .showStrip ∧ t.driver = s.driver) ∨
       (i = .release ∧ ∃ d, s.driver = some d ∧ t = tearDown d s))) := by
  rcases exec_cases h with ⟨p, n, rfl, hn⟩ | ⟨-, -, rfl⟩ | ⟨-, -, -, rfl⟩ | ⟨-, -, rfl⟩ | ⟨-, d, hd, body⟩
  · exact (execNew_error hs hn hst).imp_right fun ⟨hfault, hleft⟩ => ⟨hfault, .inl ⟨p, n, rfl, hleft⟩⟩
  · exact .inl ⟨_, by decide, rfl⟩
  · exact .inl ⟨_, by decide, rfl⟩
  · exact absurd rfl hst
  · rcases body with ⟨x, r, g, b, rfl, rfl⟩ | ⟨r, g, b, rfl, rfl⟩ | ⟨rfl, rfl⟩ | ⟨rfl, -, rfl⟩ | ⟨rfl, -, rfl⟩
    · split at hst
      · exact absurd rfl hst
      · exact .inl ⟨.indexOutOfRange, by decide, if_neg ‹_›⟩
    · exact absurd rfl hst
    · exact absurd rfl hst
    · exact .inr ⟨(showBuffer_ok_or_fault d s).resolve_left hst, .inr (.inl ⟨rfl, showBuffer_driver d s⟩)⟩
    · exact .inr ⟨(tearDown_ok_or_fault d s).resolve_left hst, .inr (.inr ⟨rfl, d, hd, rfl⟩)⟩

/-- RELEASE hands the pin back whatever became of its commit (R161). -/
theorem tearDown_unclaims (d : Driver) (s : State) :
    d.pin ∉ (tearDown d s).claimed ∧ (tearDown d s).ownsLine = false := by
  rw [tearDown_eq]
  simp

/-- Settles O32: an error leaves its answer only, or it is the fault of NEW, of SHOW or of RELEASE. -/
theorem errorsArePrecise : Obligations.ErrorsArePrecise := by
  unfold Obligations.ErrorsArePrecise
  refine ⟨fun i s t hs h => ?_, fun s w rest e hb hi hw => step_reserved hb hi hw⟩
  by_cases hok : t.status = .ok
  · simp [hok]
  rcases exec_error hs h hok with ⟨st, hst, rfl⟩ | ⟨⟨hfault, -, hwire⟩, hleft⟩
  · exact ⟨fun _ _ => rfl, fun e => absurd e hst, fun e => absurd e hst, fun e => absurd e hst, fun _ => .inl rfl⟩
  · refine ⟨fun _ hno => absurd hfault hno, fun _ => hwire, ?_⟩
    rcases hleft with ⟨p, n, rfl, hnone, hpin⟩ | ⟨rfl, hsame⟩ | ⟨rfl, d, hd, rfl⟩
    · refine ⟨fun _ p' n' e => ?_, by simp, fun _ => .inr (.inl hnone)⟩
      cases e
      exact hpin
    · exact ⟨by simp, by simp, fun _ => .inl hsame⟩
    · refine ⟨by simp, fun _ _ d' hd' => ?_, fun _ => .inr (.inr ⟨d, hd, tearDown_driver d s⟩)⟩
      obtain rfl : d = d' := Option.some.inj (hd.symm.trans hd')
      exact tearDown_unclaims d s

/-! ### Commands the phase rejects -/

/-- Settles O12: the dispatch finds no driver, or NEW finds one. -/
theorem commandsOutOfPlaceAnswerWrongPhase : Obligations.CommandsOutOfPlaceAnswerWrongPhase := by
  unfold Obligations.CommandsOutOfPlaceAnswerWrongPhase
  refine ⟨rfl, fun i s hp hi => ?_, fun p n s hp => execNew_ready hp⟩
  cases i with
  | new p n => exact absurd rfl (hi p n)
  | release => exact execRelease_uninitialized hp
  | _ => exact inReady_uninitialized _ hp

/-- Settles O13: the dispatch and NEW find the driver released, and the cause of `UseAfterRelease` excludes RELEASE. -/
theorem releasedDriverRejectsCommands : Obligations.ReleasedDriverRejectsCommands := by
  unfold Obligations.ReleasedDriverRejectsCommands
  refine ⟨rfl, fun i s hp hi => ?_, fun s t h hst => ?_⟩
  · cases i with
    | new p n => exact execNew_released hp
    | release => exact absurd rfl hi
    | _ => exact inReady_released _ hp
  · have cause := exec_statusCause h
    rw [hst] at cause
    obtain ⟨-, hi⟩ := cause
    exact hi rfl

/-! ### The platform's unclaim -/

/-- Settles O47: a pin that is no longer in the set is free for a claim. -/
theorem unclaimFreesThePin : Obligations.UnclaimFreesThePin := by
  unfold Obligations.UnclaimFreesThePin
  refine fun p s => ⟨fun q => mem_removePin p q s.claimed, rfl, rfl, fun hc => ?_⟩
  have hfree : p ∉ (unclaim p s).claimed := by simp
  exact ⟨_, claim_free hc hfree⟩

end Sys2Proof.Machine
end

section
/-! Proofs, spec/70_reset_and_hazards.md: how long a transmission lasts, and a reset that ends a command. -/

namespace Sys2Proof.Machine

/-! ### The duration of a transmission -/

@[simp] theorem duration_lowPeriod (t : Timing) (extra : Nat) : duration [lowPeriod t extra] = t.tres + extra := by
  simp [duration]

/-- The symbols follow one another at once, so their periods add up (R184, R266). -/
theorem duration_dataWave (t : Timing) (bits : List Bool) :
    duration (dataWave t bits) = (bits.map (symbolTicks t)).sum := by
  induction bits with
  | nil => rfl
  | cons b bits ih => rw [dataWave_cons, duration_append, duration_symbol, ih, List.map_cons, List.sum_cons]

theorem duration_wave (t : Timing) (bits : List Bool) (extra : Nat) :
    duration (wave t bits extra) = (bits.map (symbolTicks t)).sum + (t.tres + extra) := by
  rw [wave, duration_append, duration_dataWave, duration_lowPeriod]

theorem symbolTicks_of_equal_periods {t : Timing} (h : t.t0h + t.t0l = t.t1h + t.t1l) (b : Bool) :
    symbolTicks t b = t.t0h + t.t0l := by
  cases b with
  | true => exact h.symm
  | false => rfl

/-- With one period for both symbols, only the number of bits counts (R266). -/
theorem sum_symbolTicks_of_equal_periods {t : Timing} (h : t.t0h + t.t0l = t.t1h + t.t1l) (bits : List Bool) :
    (bits.map (symbolTicks t)).sum = bits.length * (t.t0h + t.t0l) := by
  rw [List.map_congr_left fun b _ => symbolTicks_of_equal_periods h b, List.map_const', List.sum_replicate, smul_eq_mul]

/-- Settles O43: the symbols' periods and the gap add up, and there are 24 bits for each pixel (R110). -/
theorem transmissionDuration : Obligations.TransmissionDuration := by
  unfold Obligations.TransmissionDuration
  refine fun t o seq extra => ⟨duration_wave t _ extra, fun hperiod => ?_, fun before => ?_⟩
  · rw [duration_wave, sum_symbolTicks_of_equal_periods hperiod, wireBits_length]
  · rw [duration_append, leadWave_true, duration_lowPeriod]

/-! ### A reset that ends a command -/

/-- Settles O52: if the block was busy already the step is the reset itself, and if not, `resetDuring_eq` says in what
the two differ. -/
theorem resetEndsACommandWithoutResponse : Obligations.ResetEndsACommandWithoutResponse := by
  unfold Obligations.ResetEndsACommandWithoutResponse
  intro s w rest hi
  refine ⟨resetBlock { s with inputs := rest }, ?_⟩
  rcases step_resetDuring hi with hstep | hstep
  · exact ⟨_, step_reset rfl, hstep, rfl, rfl, rfl, fun _ => .inl rfl⟩
  · obtain ⟨shown, draws, freeIndex, hreset, hlength, hleds⟩ := resetDuring_eq w { s with inputs := rest }
    rw [hreset] at hstep
    exact ⟨_, step_reset rfl, hstep, rfl, rfl, hlength, hleds⟩

end Sys2Proof.Machine
end
